-- ==== Sys2Proof/Word.lean ====
section
/-! DEFINITION. The word types of µMPS3 (spec/00_scope.md R8) and nothing else: 32-bit words and registers,
16-bit halfwords, 8-bit bytes, 5-bit register numbers. -/

namespace Sys2Proof

/-- A 32-bit word: register contents, addresses, instruction words (R8). -/
abbrev Word := BitVec 32

/-- A 16-bit halfword (R8). -/
abbrev Half := BitVec 16

/-- An 8-bit byte, the addressable unit of memory (R8, R80). -/
abbrev Byte := BitVec 8

/-- A general register number, 0..31 (R142). In MFC0 and MTC0 the `rd` field is a CP0 register number of the
same width. -/
abbrev Reg := BitVec 5

/-- A TLB slot number, 6 bits (R41, R42). -/
abbrev TlbIx := BitVec 6

/-- A processor number, 0..15 (R47). -/
abbrev CpuId := BitVec 4

end Sys2Proof
end

