-- ==== Sys2Proof/Syntax.lean ====
section
/-! DEFINITION. The instructions of µMPS3: one constructor per row of spec/opcode_table.json, in the table's
order, with the operand fields of spec/30_encoding.md R141, R142. -/

namespace Sys2Proof

/-- One instruction (spec/opcode_table.json). Operands stand in the order of the assembler's syntax, destination
first (R156). Immediates are the raw 16-bit field: each meaning extends it as R143 says. -/
inductive Instr where
  -- 40_alu.md
  | add (rd rs rt : Reg)
  | addu (rd rs rt : Reg)
  | sub (rd rs rt : Reg)
  | subu (rd rs rt : Reg)
  | and (rd rs rt : Reg)
  | or (rd rs rt : Reg)
  | xor (rd rs rt : Reg)
  | nor (rd rs rt : Reg)
  | slt (rd rs rt : Reg)
  | sltu (rd rs rt : Reg)
  | addi (rt rs : Reg) (imm : Half)
  | addiu (rt rs : Reg) (imm : Half)
  | slti (rt rs : Reg) (imm : Half)
  | sltiu (rt rs : Reg) (imm : Half)
  | andi (rt rs : Reg) (imm : Half)
  | ori (rt rs : Reg) (imm : Half)
  | xori (rt rs : Reg) (imm : Half)
  | lui (rt : Reg) (imm : Half)
  | sll (rd rt : Reg) (sa : BitVec 5)
  | srl (rd rt : Reg) (sa : BitVec 5)
  | sra (rd rt : Reg) (sa : BitVec 5)
  | sllv (rd rt rs : Reg)
  | srlv (rd rt rs : Reg)
  | srav (rd rt rs : Reg)
  -- 41_muldiv.md
  | mult (rs rt : Reg)
  | multu (rs rt : Reg)
  | div (rs rt : Reg)
  | divu (rs rt : Reg)
  | mfhi (rd : Reg)
  | mthi (rs : Reg)
  | mflo (rd : Reg)
  | mtlo (rs : Reg)
  -- 42_loadstore.md
  | lb (rt base : Reg) (off : Half)
  | lbu (rt base : Reg) (off : Half)
  | lh (rt base : Reg) (off : Half)
  | lhu (rt base : Reg) (off : Half)
  | lw (rt base : Reg) (off : Half)
  | lwl (rt base : Reg) (off : Half)
  | lwr (rt base : Reg) (off : Half)
  | sb (rt base : Reg) (off : Half)
  | sh (rt base : Reg) (off : Half)
  | sw (rt base : Reg) (off : Half)
  | swl (rt base : Reg) (off : Half)
  | swr (rt base : Reg) (off : Half)
  -- 43_branch_jump.md
  | j (target : BitVec 26)
  | jal (target : BitVec 26)
  | jr (rs : Reg)
  | jalr (rd rs : Reg)
  | beq (rs rt : Reg) (off : Half)
  | bne (rs rt : Reg) (off : Half)
  | blez (rs : Reg) (off : Half)
  | bgtz (rs : Reg) (off : Half)
  | bltz (rs : Reg) (off : Half)
  | bgez (rs : Reg) (off : Half)
  | bltzal (rs : Reg) (off : Half)
  | bgezal (rs : Reg) (off : Half)
  -- 44_system_cp0.md
  | syscall (code : BitVec 20)
  | brk (code : BitVec 20)
  | mfc0 (rt rd : Reg)
  | mtc0 (rt rd : Reg)
  | tlbr
  | tlbwi
  | tlbwr
  | tlbp
  | rfe
  | wait
  -- 45_cas.md
  | cas (rd rs rt : Reg)
  deriving DecidableEq, Repr

end Sys2Proof
end

