-- ==== Sys2Proof/WellFormed.lean ====
section
/-! DEFINITION. Which instruction terms are well formed. Every operand of `Instr` has exactly the width of its
field (R141), so the only checks left are the operand combinations that MIPS I forbids and the spec leaves
outside the model: JALR with rs = rd (R245), BLTZAL and BGEZAL with rs = 31 (R252, R253). Their words decode;
their meanings refuse them by name. -/

namespace Sys2Proof

/-- The operand restrictions of R245, R252 and R253 (not restartable, D28). -/
def Instr.wellFormed : Instr → Bool
  | .jalr rd rs => rd != rs
  | .bltzal rs _ => rs != 31
  | .bgezal rs _ => rs != 31
  | _ => true

end Sys2Proof
end

