-- ==== Sys2Proof/Decode.lean ====
section
/-! DEFINITION. Instruction words: the decoder (spec/30_encoding.md R140-R154, in the order of R149) and the
encoder, both written from the opcode maps R144-R148 and the rows of spec/opcode_table.json. -/

namespace Sys2Proof

/-! ## Bytes and words -/

/-- The word whose four bytes lie at rising addresses `b0`, `b1`, `b2`, `b3`, in the given byte order (R100). -/
def wordOfBytes (big : Bool) (b0 b1 b2 b3 : Byte) : Word :=
  if big then b0 ++ b1 ++ b2 ++ b3 else b3 ++ b2 ++ b1 ++ b0

/-! ## Fields of a word (R141, R142) -/

def fOp (w : Word) : BitVec 6 := w.extractLsb' 26 6
def fRs (w : Word) : Reg := w.extractLsb' 21 5
def fRt (w : Word) : Reg := w.extractLsb' 16 5
def fRd (w : Word) : Reg := w.extractLsb' 11 5
def fSa (w : Word) : BitVec 5 := w.extractLsb' 6 5
def fFunct (w : Word) : BitVec 6 := w.extractLsb' 0 6
def fImm (w : Word) : Half := w.extractLsb' 0 16
def fTarget (w : Word) : BitVec 26 := w.extractLsb' 0 26
def fCode (w : Word) : BitVec 20 := w.extractLsb' 6 20

/-- The outcomes of decoding (R149). -/
inductive Decoded where
  /-- A row of the opcode table. -/
  | instr (i : Instr)
  /-- A coprocessor 1..3 word: CpU with CE = z in both modes (R152, R271). -/
  | copUnusable (z : BitVec 2)
  /-- A COP0-space word that is no row: CpU if CP0 is not usable, else RI (R153, R272). -/
  | cop0Reserved
  /-- A reserved encoding: RI (R150). -/
  | reserved
  /-- A row of the table but for a non-zero must-be-zero field: refused (R151, D17). -/
  | mustBeZero
  deriving DecidableEq, Repr

/-- The row `i` when its must-be-zero fields are zero (R151). -/
def Decoded.ifZero (zero : Bool) (i : Instr) : Decoded := if zero then .instr i else .mustBeZero

/-- SPECIAL, `op` = 0: selected by `funct` (R145). The must-be-zero fields are those of the rows' masks. -/
def decodeSpecial (w : Word) : Decoded :=
  let rs := fRs w; let rt := fRt w; let rd := fRd w; let sa := fSa w
  match (fFunct w).toNat with
  | 0x00 => .ifZero (rs == 0) (.sll rd rt sa)
  | 0x02 => .ifZero (rs == 0) (.srl rd rt sa)
  | 0x03 => .ifZero (rs == 0) (.sra rd rt sa)
  | 0x04 => .ifZero (sa == 0) (.sllv rd rt rs)
  | 0x06 => .ifZero (sa == 0) (.srlv rd rt rs)
  | 0x07 => .ifZero (sa == 0) (.srav rd rt rs)
  | 0x08 => .ifZero (rt == 0 && rd == 0 && sa == 0) (.jr rs)
  | 0x09 => .ifZero (rt == 0 && sa == 0) (.jalr rd rs)
  | 0x0B => .ifZero (sa == 0) (.cas rd rs rt)
  | 0x0C => .instr (.syscall (fCode w))
  | 0x0D => .instr (.brk (fCode w))
  | 0x10 => .ifZero (rs == 0 && rt == 0 && sa == 0) (.mfhi rd)
  | 0x11 => .ifZero (rt == 0 && rd == 0 && sa == 0) (.mthi rs)
  | 0x12 => .ifZero (rs == 0 && rt == 0 && sa == 0) (.mflo rd)
  | 0x13 => .ifZero (rt == 0 && rd == 0 && sa == 0) (.mtlo rs)
  | 0x18 => .ifZero (rd == 0 && sa == 0) (.mult rs rt)
  | 0x19 => .ifZero (rd == 0 && sa == 0) (.multu rs rt)
  | 0x1A => .ifZero (rd == 0 && sa == 0) (.div rs rt)
  | 0x1B => .ifZero (rd == 0 && sa == 0) (.divu rs rt)
  | 0x20 => .ifZero (sa == 0) (.add rd rs rt)
  | 0x21 => .ifZero (sa == 0) (.addu rd rs rt)
  | 0x22 => .ifZero (sa == 0) (.sub rd rs rt)
  | 0x23 => .ifZero (sa == 0) (.subu rd rs rt)
  | 0x24 => .ifZero (sa == 0) (.and rd rs rt)
  | 0x25 => .ifZero (sa == 0) (.or rd rs rt)
  | 0x26 => .ifZero (sa == 0) (.xor rd rs rt)
  | 0x27 => .ifZero (sa == 0) (.nor rd rs rt)
  | 0x2A => .ifZero (sa == 0) (.slt rd rs rt)
  | 0x2B => .ifZero (sa == 0) (.sltu rd rs rt)
  | _ => .reserved

/-- REGIMM, `op` = 1: selected by `rt` (R146). -/
def decodeRegimm (w : Word) : Decoded :=
  match (fRt w).toNat with
  | 0x00 => .instr (.bltz (fRs w) (fImm w))
  | 0x01 => .instr (.bgez (fRs w) (fImm w))
  | 0x10 => .instr (.bltzal (fRs w) (fImm w))
  | 0x11 => .instr (.bgezal (fRs w) (fImm w))
  | _ => .reserved

/-- COP0, `op` = 0x10 (R147, R148). A COP0-space word that matches no row raises CpU or RI, also where only a
must-be-zero field of a row is non-zero: R149's order (log 20). -/
def decodeCop0 (w : Word) : Decoded :=
  match (w.extractLsb' 0 26).toNat with
  | 0x2000001 => .instr .tlbr
  | 0x2000002 => .instr .tlbwi
  | 0x2000006 => .instr .tlbwr
  | 0x2000008 => .instr .tlbp
  | 0x2000010 => .instr .rfe
  | 0x2000020 => .instr .wait
  | _ =>
    match (fRs w).toNat with
    | 0x00 => if w.extractLsb' 0 11 == 0 then .instr (.mfc0 (fRt w) (fRd w)) else .cop0Reserved
    | 0x04 => if w.extractLsb' 0 11 == 0 then .instr (.mtc0 (fRt w) (fRd w)) else .cop0Reserved
    | _ => .cop0Reserved

/-- Decode one instruction word: the primary opcode map (R144) in the order of R149. -/
def decode (w : Word) : Decoded :=
  let rs := fRs w; let rt := fRt w; let imm := fImm w
  match (fOp w).toNat with
  | 0x00 => decodeSpecial w
  | 0x01 => decodeRegimm w
  | 0x02 => .instr (.j (fTarget w))
  | 0x03 => .instr (.jal (fTarget w))
  | 0x04 => .instr (.beq rs rt imm)
  | 0x05 => .instr (.bne rs rt imm)
  | 0x06 => .ifZero (rt == 0) (.blez rs imm)
  | 0x07 => .ifZero (rt == 0) (.bgtz rs imm)
  | 0x08 => .instr (.addi rt rs imm)
  | 0x09 => .instr (.addiu rt rs imm)
  | 0x0A => .instr (.slti rt rs imm)
  | 0x0B => .instr (.sltiu rt rs imm)
  | 0x0C => .instr (.andi rt rs imm)
  | 0x0D => .instr (.ori rt rs imm)
  | 0x0E => .instr (.xori rt rs imm)
  | 0x0F => .ifZero (rs == 0) (.lui rt imm)
  | 0x10 => decodeCop0 w
  | 0x11 => .copUnusable 1
  | 0x12 => .copUnusable 2
  | 0x13 => .copUnusable 3
  | 0x20 => .instr (.lb rt rs imm)
  | 0x21 => .instr (.lh rt rs imm)
  | 0x22 => .instr (.lwl rt rs imm)
  | 0x23 => .instr (.lw rt rs imm)
  | 0x24 => .instr (.lbu rt rs imm)
  | 0x25 => .instr (.lhu rt rs imm)
  | 0x26 => .instr (.lwr rt rs imm)
  | 0x28 => .instr (.sb rt rs imm)
  | 0x29 => .instr (.sh rt rs imm)
  | 0x2A => .instr (.swl rt rs imm)
  | 0x2B => .instr (.sw rt rs imm)
  | 0x2E => .instr (.swr rt rs imm)
  | 0x30 => .cop0Reserved
  | 0x31 => .copUnusable 1
  | 0x32 => .copUnusable 2
  | 0x33 => .copUnusable 3
  | 0x38 => .cop0Reserved
  | 0x39 => .copUnusable 1
  | 0x3A => .copUnusable 2
  | 0x3B => .copUnusable 3
  | _ => .reserved

/-- Decode from bytes at rising addresses: every instruction takes exactly four, fewer are no instruction
(R140). -/
def decodeBytes (big : Bool) : List Byte → Option Decoded
  | b0 :: b1 :: b2 :: b3 :: _ => some (decode (wordOfBytes big b0 b1 b2 b3))
  | _ => none

/-! ## The encoder -/

/-- R format (R141). -/
def rWord (op : BitVec 6) (rs rt rd : Reg) (sa : BitVec 5) (funct : BitVec 6) : Word :=
  op ++ rs ++ rt ++ rd ++ sa ++ funct

/-- I format (R141). -/
def iWord (op : BitVec 6) (rs rt : Reg) (imm : Half) : Word := op ++ rs ++ rt ++ imm

/-- J format (R141). -/
def jWord (op : BitVec 6) (target : BitVec 26) : Word := op ++ target

/-- SYSCALL and BREAK: a 20-bit code in bits 25:6 (R143, R261, R262). -/
def codeWord (code : BitVec 20) (funct : BitVec 6) : Word := (0 : BitVec 6) ++ code ++ funct

/-- The word of an instruction (spec/opcode_table.json). -/
def encode : Instr → Word
  | .add rd rs rt => rWord 0 rs rt rd 0 0x20
  | .addu rd rs rt => rWord 0 rs rt rd 0 0x21
  | .sub rd rs rt => rWord 0 rs rt rd 0 0x22
  | .subu rd rs rt => rWord 0 rs rt rd 0 0x23
  | .and rd rs rt => rWord 0 rs rt rd 0 0x24
  | .or rd rs rt => rWord 0 rs rt rd 0 0x25
  | .xor rd rs rt => rWord 0 rs rt rd 0 0x26
  | .nor rd rs rt => rWord 0 rs rt rd 0 0x27
  | .slt rd rs rt => rWord 0 rs rt rd 0 0x2A
  | .sltu rd rs rt => rWord 0 rs rt rd 0 0x2B
  | .addi rt rs imm => iWord 0x08 rs rt imm
  | .addiu rt rs imm => iWord 0x09 rs rt imm
  | .slti rt rs imm => iWord 0x0A rs rt imm
  | .sltiu rt rs imm => iWord 0x0B rs rt imm
  | .andi rt rs imm => iWord 0x0C rs rt imm
  | .ori rt rs imm => iWord 0x0D rs rt imm
  | .xori rt rs imm => iWord 0x0E rs rt imm
  | .lui rt imm => iWord 0x0F 0 rt imm
  | .sll rd rt sa => rWord 0 0 rt rd sa 0x00
  | .srl rd rt sa => rWord 0 0 rt rd sa 0x02
  | .sra rd rt sa => rWord 0 0 rt rd sa 0x03
  | .sllv rd rt rs => rWord 0 rs rt rd 0 0x04
  | .srlv rd rt rs => rWord 0 rs rt rd 0 0x06
  | .srav rd rt rs => rWord 0 rs rt rd 0 0x07
  | .mult rs rt => rWord 0 rs rt 0 0 0x18
  | .multu rs rt => rWord 0 rs rt 0 0 0x19
  | .div rs rt => rWord 0 rs rt 0 0 0x1A
  | .divu rs rt => rWord 0 rs rt 0 0 0x1B
  | .mfhi rd => rWord 0 0 0 rd 0 0x10
  | .mthi rs => rWord 0 rs 0 0 0 0x11
  | .mflo rd => rWord 0 0 0 rd 0 0x12
  | .mtlo rs => rWord 0 rs 0 0 0 0x13
  | .lb rt base off => iWord 0x20 base rt off
  | .lbu rt base off => iWord 0x24 base rt off
  | .lh rt base off => iWord 0x21 base rt off
  | .lhu rt base off => iWord 0x25 base rt off
  | .lw rt base off => iWord 0x23 base rt off
  | .lwl rt base off => iWord 0x22 base rt off
  | .lwr rt base off => iWord 0x26 base rt off
  | .sb rt base off => iWord 0x28 base rt off
  | .sh rt base off => iWord 0x29 base rt off
  | .sw rt base off => iWord 0x2B base rt off
  | .swl rt base off => iWord 0x2A base rt off
  | .swr rt base off => iWord 0x2E base rt off
  | .j target => jWord 0x02 target
  | .jal target => jWord 0x03 target
  | .jr rs => rWord 0 rs 0 0 0 0x08
  | .jalr rd rs => rWord 0 rs 0 rd 0 0x09
  | .beq rs rt off => iWord 0x04 rs rt off
  | .bne rs rt off => iWord 0x05 rs rt off
  | .blez rs off => iWord 0x06 rs 0 off
  | .bgtz rs off => iWord 0x07 rs 0 off
  | .bltz rs off => iWord 0x01 rs 0x00 off
  | .bgez rs off => iWord 0x01 rs 0x01 off
  | .bltzal rs off => iWord 0x01 rs 0x10 off
  | .bgezal rs off => iWord 0x01 rs 0x11 off
  | .syscall code => codeWord code 0x0C
  | .brk code => codeWord code 0x0D
  | .mfc0 rt rd => rWord 0x10 0x00 rt rd 0 0
  | .mtc0 rt rd => rWord 0x10 0x04 rt rd 0 0
  | .tlbr => 0x42000001#32
  | .tlbwi => 0x42000002#32
  | .tlbwr => 0x42000006#32
  | .tlbp => 0x42000008#32
  | .rfe => 0x42000010#32
  | .wait => 0x42000020#32
  | .cas rd rs rt => rWord 0 rs rt rd 0 0x0B

/-! ## The host's window -/

/-- Byte `k` of a number, least significant first. -/
def byteOfNat (w k : Nat) : Byte := BitVec.ofNat 8 (w / 2 ^ (8 * k))

/-- The instruction the decoder reads from the table row bits `w` (bit 0 the least significant bit of the first
word; bits at and above `nbits` are 0): the word is laid out as little-endian bytes and given to `decodeBytes`. -/
def decodeTableWord (nbits w : Nat) : Option Instr :=
  let v := w % 2 ^ nbits
  match decodeBytes false [byteOfNat v 0, byteOfNat v 1, byteOfNat v 2, byteOfNat v 3] with
  | some (.instr i) => some i
  | _ => none

end Sys2Proof
end

