-- ==== Sys2Proof/Machine/Operands.lean ====
section
/-! DEFINITION. The operand computations of µMPS3: immediates and addresses (spec/30_encoding.md R143), the
merges of the unaligned loads and stores (spec/42_loadstore.md R228, R229, R235, R236), and the bit-field and
byte-lane helpers they use. -/

namespace Sys2Proof.Machine

/-- `old` with the bits of `mask` taken from `new`. -/
def mergeBits (mask old new : Word) : Word := (old &&& ~~~mask) ||| (new &&& mask)

/-- `sext_16(imm16)` (R143). -/
def sext16 (imm : Half) : Word := imm.signExtend 32

/-- `zext_16(imm16)` (R143). -/
def zext16 (imm : Half) : Word := imm.setWidth 32

/-- The LUI immediate, `imm16 ‖ 0^16` (R143). -/
def upper16 (imm : Half) : Word := imm ++ (0 : Half)

/-- The effective address of a load or store (R220). -/
def effAddr (base : Word) (off : Half) : Word := base + sext16 off

/-- The target of a conditional branch at `pc` (R241). -/
def branchTarget (pc : Word) (off : Half) : Word := pc + 4 + (sext16 off <<< 2)

/-- The target of J and JAL at `pc` (R241). -/
def jumpTarget (pc : Word) (target : BitVec 26) : Word :=
  (pc + 4).extractLsb' 28 4 ++ target ++ (0 : BitVec 2)

/-- The link value of a jump at `pc`: the address after the delay slot (R243). -/
def linkValue (pc : Word) : Word := pc + 8

/-- The count of a variable shift, `GPR[rs][4:0]` (R192). -/
def shiftCount (w : Word) : Nat := (w.extractLsb' 0 5).toNat

/-- Byte lane `j` of a word, lane 0 the least significant (R100). -/
def laneOf (w : Word) (j : Nat) : Byte := w.extractLsb' (8 * j) 8

/-- The offset from a word's address of the byte that holds lane `j` (R100). -/
def laneOffset (big : Bool) (j : Nat) : Nat := if big then 3 - j else j

/-- The aligned word that contains an address: `ea & 0xFFFF.FFFC` (R228). -/
def alignedAddr (a : Nat) : Nat := a - a % 4

/-- The `k` of LWL and SWL (R228, R235), from the low bits of the address. -/
def leftShift (big : Bool) (ea : Word) : Nat :=
  let b := (ea.extractLsb' 0 2).toNat
  if big then b else 3 - b

/-- The `m` of LWR and SWR (R229, R236), from the low bits of the address. -/
def rightShift (big : Bool) (ea : Word) : Nat :=
  let b := (ea.extractLsb' 0 2).toNat
  if big then 3 - b else b

/-- LWL's merge of the memory word into the old register value (R228). -/
def lwlMerge (k : Nat) (w old : Word) : Word :=
  (w <<< (8 * k)) ||| (old &&& (BitVec.ofNat 32 (2 ^ (8 * k) - 1)))

/-- LWR's merge of the memory word into the old register value (R229). -/
def lwrMerge (m : Nat) (w old : Word) : Word :=
  (w >>> (8 * m)) ||| (old &&& ~~~(0xFFFFFFFF#32 >>> (8 * m)))

/-- The value whose low lanes SWL stores (R235). -/
def swlValue (k : Nat) (v : Word) : Word := v >>> (8 * k)

/-- The lanes SWL stores: the `4 - k` low ones (R235). -/
def swlLane (k j : Nat) : Bool := decide (j + k ≤ 3)

/-- The value whose high lanes SWR stores (R236). -/
def swrValue (m : Nat) (v : Word) : Word := v <<< (8 * m)

/-- The lanes SWR stores: the `4 - m` high ones (R236). -/
def swrLane (m j : Nat) : Bool := decide (m ≤ j)

/-- Eight bits, bit `i` given by `f i`. -/
def bits8 (f : Nat → Bool) : BitVec 8 :=
  BitVec.ofBool (f 7) ++ BitVec.ofBool (f 6) ++ BitVec.ofBool (f 5) ++ BitVec.ofBool (f 4) ++
  BitVec.ofBool (f 3) ++ BitVec.ofBool (f 2) ++ BitVec.ofBool (f 1) ++ BitVec.ofBool (f 0)

end Sys2Proof.Machine
end

