-- ==== Sys2Proof/Config.lean ====
section
/-! DEFINITION. What an implementation of µMPS3 fixes: the configuration parameters of spec/00_scope.md R9 and
R10, and the opaque constants behind every value the spec leaves `any` (spec/93_implementation_defined.md B.3).
The parameters are plain data held in the state (`State.cfg`), so a statement about every state holds for every
configuration; nothing changes them while the machine runs. -/

namespace Sys2Proof

/-- The four settings of the TLB Floor Address (R9, R116). -/
inductive TlbFloor where
  | vmOff | kuseg | kseg2 | ramTop
  deriving DecidableEq, Repr

/-- Whether the Interrupting Devices Bit Map shows every pending device or only those routed to the processor
that reads it (`IDBM_VIEW`, R10, R403, D31). -/
inductive BitMapView where
  | global | perCpu
  deriving DecidableEq, Repr

/-- The ten CP0 registers (R30). -/
inductive Cp0Reg where
  | index | random | entryLo | badVAddr | timer | entryHi | status | cause | epc | prid
  deriving DecidableEq, Repr

/-- `CP0_REGNUM` at its proposed default (R30): the MFC0/MTC0 number of each CP0 register. -/
def cp0RegnumDefault : List (Reg × Cp0Reg) :=
  [(0, .index), (1, .random), (2, .entryLo), (8, .badVAddr), (9, .timer), (10, .entryHi), (12, .status),
   (13, .cause), (14, .epc), (15, .prid)]

/-- The configuration (R9) and the open parameters (R10), each at its default. The ROM images themselves are in
memory; `execSize` and `bootSize` are their sizes (R374). DESIGN CHOICE (log 8, unsafe): no image is in the spec,
so both sizes are 0 until the host supplies one. -/
structure Config where
  /-- `NCPU`, 1..16 (R9). -/
  ncpu : Nat := 1
  /-- `TIMESCALE`, 1..99 (R9, R373). -/
  timeScale : Nat := 1
  /-- `TLBSIZE`: 4, 8, 16, 32 or 64 (R9). -/
  tlbSize : Nat := 16
  /-- `TLBFLOOR` (R9, R116). -/
  tlbFloor : TlbFloor := .vmOff
  /-- `RAMFRAMES`, 8..512 (R9). -/
  ramFrames : Nat := 64
  /-- `BIG_ENDIAN` (R9, R100, log 1). -/
  bigEndian : Bool := false
  /-- Size in bytes of `EXEC_ROM` (R86, R374). -/
  execSize : Nat := 0
  /-- Size in bytes of `BOOT_ROM` (R90, R374). -/
  bootSize : Nat := 0
  /-- `LOAD_CORE` (R9, R471). -/
  loadCore : Bool := true
  /-- `CORE_IMAGE`, byte for byte (R9, R471, log 9). -/
  coreImage : List Byte := []
  /-- `CP0_REGNUM` (R10, R30, D4). -/
  cp0Regnum : List (Reg × Cp0Reg) := cp0RegnumDefault
  /-- `IRT_BASE` (R10, R388, D30). -/
  irtBase : Nat := 0x10000300
  /-- `TLBFLOOR_VMOFF_VALUE` (R10, R374, D12). -/
  vmOffValue : Word := 0xFFFFFFFF#32
  /-- `IDBM_VIEW` (R10, R403, D31). DESIGN CHOICE (log 27, unsafe): the spec leaves it open. -/
  idbmView : BitMapView := .global
  /-- `WAIT_PENDING` (R10, R270, D27): true when a line that is already pending does not end a WAIT.
  DESIGN CHOICE (log 25, unsafe): the spec leaves it open. -/
  waitNeedsSignal : Bool := false
  /-- `CAUSE_WMASK` (R10, R40, D6). -/
  causeWMask : Word := 0
  deriving DecidableEq, Repr

/-- `RAMSIZE` (R9). -/
def Config.ramSize (c : Config) : Nat := c.ramFrames * 4096

/-- `RAMTOP` (R9): the first address past installed RAM. -/
def Config.ramTop (c : Config) : Nat := 0x20000000 + c.ramSize

/-- The ranges of R9 and R10, the placement of the ROMs (R85, R90) and the core image's fit (R471, D51). -/
def Config.valid (c : Config) : Bool :=
  decide (1 ≤ c.ncpu ∧ c.ncpu ≤ 16) && decide (1 ≤ c.timeScale ∧ c.timeScale ≤ 99) &&
  [4, 8, 16, 32, 64].contains c.tlbSize && decide (8 ≤ c.ramFrames ∧ c.ramFrames ≤ 512) &&
  decide (c.execSize ≤ 0x0FFFF000 ∧ c.execSize % 4 = 0) &&
  decide (0x1FC00000 + c.bootSize ≤ 0x20000000 ∧ c.bootSize % 4 = 0) &&
  decide (0x100002D4 ≤ c.irtBase ∧ c.irtBase ≤ 0x10000340 ∧ c.irtBase % 4 = 0) &&
  decide (0x20001000 + c.coreImage.length ≤ c.ramTop)

/-! ## Free values

A value the spec leaves `any` (R14) is one of these constants applied to a number that is used once
(`State.draws`, log 10). They have no body: nothing can be proved of what they return. -/

/-- An unspecified 32-bit value. -/
opaque Config.freeWord : Nat → Word

/-- An unspecified natural number: a delay, an amount, a choice among candidates. -/
opaque Config.freeNat : Nat → Nat

/-- An unspecified choice between two behaviours. -/
opaque Config.freeBit : Nat → Bool

/-- The default configuration words (DATA0 and DATA1 in the format of R437) of the network adapter with this
device number: "reset all configuration data to defaults" names defaults it does not state (R438, D34). -/
opaque Config.netDefaults : Nat → Word × Word

/-- How many packets the network adapter with this device number can queue (R437: not stated). -/
opaque Config.netCapacity : Nat → Nat

/-! ## The default BIOS (spec/46_libumps_bios.md)

Used only by the contracts of Sys2Proof/Machine/Bios.lean; the machine itself executes the ROM images (R320). -/

/-- The four services that the default BIOS performs for a BREAK from kernel mode (R313). -/
inductive BiosService where
  | ldst | ldcxt | panic | halt
  deriving DecidableEq, Repr

/-- An unspecified arrangement of the 32-bit values, behind `BIOS_SVC_CODES` (R10, R313, D36: four distinct values). -/
opaque Config.biosCodeOrder : Equiv.Perm Word

/-- The word of `EXEC_ROM` at which the Kernel Panic routine starts (R461). -/
opaque Config.kernelPanicIndex : Nat

/-- The word of `EXEC_ROM` at which the routine that starts a secondary processor starts (R317). -/
opaque Config.startRoutineIndex : Nat

/-- The word of `EXEC_ROM` at which the loop that a service ends in starts (R316). -/
opaque Config.loopIndex : BiosService → Nat

/-- Whether letter `k` of the text that a service displays is in upper case (R316: not fixed). -/
opaque Config.textUpper : BiosService → Nat → Bool

/-- Whether the text that a service displays ends in a newline (R316: not fixed). -/
opaque Config.textNewline : BiosService → Bool

/-- The two files that supply `_start`: `crtso.o` for a kernel, `crti.o` for a U-proc (R468). -/
inductive StartFile where
  | crtso | crti
  deriving DecidableEq, Repr

/-- How many words the code of `_start` has (R468: the code is not in the source). -/
opaque Config.startWords : StartFile → Nat

/-- What `crti.o` loads into `a0` before its SYSCALL: "a meaningful value (e.g. 2)" (R468). -/
opaque Config.exitCode : Word

end Sys2Proof
end

