-- ==== Sys2Proof/Machine/State.lean ====
section
/-! DEFINITION. The state of a µMPS3 machine as plain data (spec/10_state.md, with the state of the bus
and multiprocessor units of spec/60_exceptions.md and of the devices of spec/61_devices.md), the reasons a step
can stop, and the machine right after reset (R65). -/

namespace Sys2Proof.Machine

/-! ## Why a step stops -/

/-- Faults: the machine stops. -/
inductive Fault where
  /-- Raised by `step` when the power-off started by a write of 0xFF to the Power register, or by the host, is
  complete: no agent takes any further step (R384, R399). Safe: the spec ends the run there. -/
  | poweredOff
  deriving DecidableEq, Repr

/-- Refusals: the model has no meaning to give. Each but `notModelled` is one of the spec's own `refuse` points
(93_implementation_defined.md B.4), where it gives no effect. All are safe: nothing is claimed of such a run. -/
inductive Refusal where
  /-- Raised by an arm of `exec` whose instruction has no meaning yet. Safe. -/
  | notModelled (mnemonic : String)
  /-- Raised by every jump and branch executed in a delay slot (R254, D16). Safe. -/
  | branchInDelaySlot
  /-- Raised by JALR with rs = rd and by BLTZAL and BGEZAL with rs = 31 (R245, R252, R253, D28). Safe. -/
  | notRestartable
  /-- Raised by `step` for a word with a non-zero must-be-zero field (R151, D17). Safe. -/
  | mustBeZero
  /-- Raised by TLBR and TLBWI when Index.TLB-Index is at or beyond `TLBSIZE` (R266, D11). Safe. -/
  | tlbIndexBeyondSize
  /-- Raised by every load or store but LW and SW on a register area (R95, D24). Safe. -/
  | narrowRegisterAccess
  /-- Raised by `step` for an instruction fetch from a register area (R96, D23). Safe. -/
  | fetchFromRegister
  /-- Raised by a store to a device COMMAND with non-zero undefined upper bits (R408, D50). Safe. -/
  | commandUpperBits
  /-- Raised by the contract `State.passUp` of Sys2Proof/Machine/Bios.lean, never by `step`, when BIOSReserved1 or
  BIOSReserved2 does not hold its value of R310 (R310, B.4). Safe. -/
  | biosReservedChanged
  /-- Raised by the contract `State.ldst` of Sys2Proof/Machine/Bios.lean, never by `step`, for a `statep` that is not
  the word-aligned address of 35 readable words (R314, B.4). Safe. -/
  | badStatePointer
  deriving DecidableEq, Repr

/-! ## Memory -/

/-- Physical memory bytes by address: a list of cells in one canonical form (`Memory.wf`), addresses strictly
rising and no entry equal to what an unlisted address reads as. -/
structure Memory where
  cells : List Host.Cell
  deriving DecidableEq, Repr

/-- What an address that is not listed reads as. DESIGN CHOICE (log 3, unsafe): the spec says `any` for RAM and
the BIOS Data Page at reset (R65); 0 for an empty block device is the spec's (R474). -/
def Memory.unlisted : Byte := 0

/-- The canonical form: addresses strictly rising, no entry that reads as an unlisted address does. -/
def Memory.wfCells : List Host.Cell → Bool
  | [] => true
  | [(_, v)] => v != Memory.unlisted
  | (a, v) :: (b, w) :: rest => v != Memory.unlisted && decide (a < b) && Memory.wfCells ((b, w) :: rest)

/-- The canonical form of a memory. -/
def Memory.wf (m : Memory) : Bool := Memory.wfCells m.cells

/-! ## A processor -/

/-- One TLB entry: `hi` in the format of EntryHi, `lo` in the format of EntryLo (R49, R111). -/
structure TlbEntry where
  hi : Word
  lo : Word
  deriving DecidableEq, Repr

/-- The power states of a processor (R50, R387). `stuck` is the form that R316 allows for a Running processor inside
the endless loop of the default BIOS, with interrupts disabled: it is Running to every other part of the machine and
executes nothing. Only the contracts of Sys2Proof/Machine/Bios.lean set it, never `step` (log 37). -/
inductive Power where
  | halted | running | idle | stuck
  deriving DecidableEq, Repr

/-- A load in flight during its delay slot (R53, R233): the register it wrote, the value it held before, and the
number of the free value that decides which of the two the next instruction reads (log 11). -/
structure LoadDelay where
  reg : Reg
  old : Word
  draw : Nat
  deriving DecidableEq, Repr

/-- One pending inter-processor interrupt (R51, R394). -/
structure Ipi where
  origin : CpuId
  message : Byte
  deriving DecidableEq, Repr

/-- One processor with its CP0, its TLB and its Processor Interface (R20, R51). -/
structure Cpu where
  /-- PRID, the processor's number (R47). -/
  prid : CpuId
  /-- GPR[0..31]; slot 0 is never read (R21). -/
  gpr : Vector Word 32
  hi : Word
  lo : Word
  /-- The logical address of the current instruction (R25). -/
  pc : Word
  /-- The address of the instruction after the current one (R26). -/
  npc : Word
  /-- The current instruction is in the delay slot of a branch or jump (R26). -/
  inDelay : Bool
  /-- Index: P in bit 31, TLB-Index in bits 13:8 (R42). -/
  index : Word
  /-- Random.TLB-Index, bits 13:8 of the register (R41). -/
  random : TlbIx
  entryLo : Word
  badVAddr : Word
  /-- Timer, the Processor Local Timer (R48). -/
  timer : Word
  entryHi : Word
  status : Word
  /-- The stored fields of Cause: ExcCode, CE and BD (R38); IP is a live view (R39). -/
  cause : Word
  epc : Word
  /-- The TLB: slots 0..TLBSIZE-1 of the 64 a 6-bit index can name (R49). -/
  tlb : Vector TlbEntry 64
  power : Power
  /-- The Processor Local Timer interrupt is pending (R48). -/
  pltPending : Bool
  loadDelay : Option LoadDelay
  /-- The inter-processor interrupts behind Inbox, oldest first (R51, R394). -/
  ipiQueue : List Ipi
  /-- TPR.Priority (R391). -/
  tpr : BitVec 4
  biosReserved1 : Word
  biosReserved2 : Word
  /-- The model's own: an interrupt has been signalled since the last WAIT (R270, log 25). -/
  signalled : Bool
  deriving DecidableEq, Repr

/-! ## Devices -/

/-- An interrupt request of a source that the Interrupt Router routes: whether it is pending, and the processor
that dynamic routing gave it to (R390). -/
structure IntReq where
  pending : Bool
  owner : Option CpuId
  deriving DecidableEq, Repr

/-- What a controller is doing (R406, R407): nothing, an operation that completes at tick `doneAt`, or waiting for the
host to type a character (R454). `since` is the tick of the command: no operation completes in it (R410). -/
inductive Activity where
  | ready
  | busy (since doneAt : Nat)
  | awaiting (since : Nat)
  deriving DecidableEq, Repr

/-- A device controller, or one of the two sub-devices of a terminal (R406, R450). -/
structure Ctl where
  status : Word
  command : Word
  act : Activity
  req : IntReq
  deriving DecidableEq, Repr

/-- A disk drive (R420-R425); byte k of the medium is byte k mod 4096 of block k / 4096, blocks in the order of
cylinder, head, sector. `moved` counts the bytes that the transfer under way has moved (R124, log 30). -/
structure Disk where
  ctl : Ctl
  data0 : Word
  cylinders : Nat
  heads : Nat
  sectors : Nat
  curCyl : Nat
  blocks : Memory
  moved : Nat
  deriving DecidableEq, Repr

/-- A flash device (R430-R433); `moved` as for a disk. -/
structure Flash where
  ctl : Ctl
  data0 : Word
  blockCount : Nat
  blocks : Memory
  moved : Nat
  deriving DecidableEq, Repr

/-- A network adapter (R435-R439); `conf0` and `conf1` hold ND, IE, PQ and the MAC address in the format of the
DATA0 and DATA1 configuration words. `moved` counts the bytes that the READNET under way has moved, `collected` holds
those that the WRITENET under way has read (R124, log 30). -/
structure Network where
  ctl : Ctl
  data0 : Word
  data1 : Word
  conf0 : Word
  conf1 : Word
  rxQueue : List (List Byte)
  sent : List (List Byte)
  moved : Nat
  collected : List Byte
  deriving DecidableEq, Repr

/-- A printer (R445, R446). -/
structure Printer where
  ctl : Ctl
  data0 : Word
  log : List Byte
  deriving DecidableEq, Repr

/-- A terminal: receiver and transmitter (R450-R454), the typed characters the host has buffered, and the
characters transmitted. -/
structure Terminal where
  recv : Ctl
  transm : Ctl
  typed : List Byte
  output : List Byte
  deriving DecidableEq, Repr

/-- An installed device. -/
inductive Device where
  | disk (d : Disk)
  | flash (d : Flash)
  | network (d : Network)
  | printer (d : Printer)
  | terminal (d : Terminal)
  deriving DecidableEq, Repr

/-- The interrupt line of a device's class: 3 disk, 4 flash, 5 network, 6 printer, 7 terminal (R400). -/
def Device.line : Device → Nat
  | .disk _ => 3
  | .flash _ => 4
  | .network _ => 5
  | .printer _ => 6
  | .terminal _ => 7

/-! ## The host -/

/-- What the host does to a running machine (R486). -/
inductive HostEvent where
  /-- A character is typed at a terminal (R454). -/
  | termChar (dev : Nat) (ch : Byte)
  /-- A packet arrives at a network adapter (R439). -/
  | packet (dev : Nat) (bytes : List Byte)
  /-- The operation under way in device `n`, of the transmitter if `transm` is set and it is a terminal, fails with a
  status code (R410). -/
  | hardwareFailure (n : Nat) (transm : Bool) (code : Nat)
  /-- The Reset button (R460). -/
  | reset
  /-- The host user powers off (R399). -/
  | powerOff
  deriving DecidableEq, Repr

/-- A host event and the tick at which it happens. -/
structure HostInput where
  due : Nat
  event : HostEvent
  deriving DecidableEq, Repr

/-! ## The machine -/

/-- The machine. `cpu` is the processor whose turn it is, `todo` those that have yet to take their turn in the
current tick, `done` those that have taken it (R480, log 23). -/
structure State where
  cfg : Config
  cpu : Cpu
  todo : List Cpu
  done : List Cpu
  mem : Memory
  /-- The Time of Day clock (R370). -/
  tod : BitVec 64
  intervalTimer : Word
  /-- The Interval Timer's interrupt request (R371). -/
  itReq : IntReq
  /-- The Interrupt Routing Table (R388). -/
  irt : Vector Word 48
  bootPc : Word
  bootSp : Word
  /-- `powering_off`: the tick at which the power-off completes (R384). -/
  powerOffAt : Option Nat
  /-- The power-off is complete (R384, R399). -/
  stopped : Bool
  /-- The installed devices by number 8 * (line - 3) + device (R400), the numbers rising; a number not listed is not
  installed (R405). Each class stands on its own line (`Device.line`, `State.DevicesWf`). -/
  devices : List (Nat × Device)
  /-- What the host will do, each at its tick (R486). -/
  inputs : List HostInput
  /-- The number of the current tick (R480). -/
  now : Nat
  /-- The model's own: how many free values have been drawn (log 10). -/
  draws : Nat
  deriving DecidableEq, Repr

/-! ## Exceptions -/

/-- The three kinds of memory access (R110). -/
inductive Access where
  | fetch | load | store
  deriving DecidableEq, Repr

/-- The exceptions of R331 with what each records (R343); `va` is the logical address of the access. -/
inductive Exc where
  | int
  | mod (va : Word)
  | tlbInvalid (k : Access) (va : Word)
  | tlbRefill (k : Access) (va : Word)
  | addressError (k : Access) (va : Word)
  | busError (k : Access) (va : Word)
  | sys
  | bp
  | ri
  | copUnusable (z : BitVec 2)
  | ov
  deriving DecidableEq, Repr

/-! ## Reset -/

/-- A request that is not pending. -/
def IntReq.none : IntReq := { pending := false, owner := Option.none }

/-- Processor `p` right after a machine reset, in power state `power` (R65). DESIGN CHOICE (log 4, log 5,
unsafe): the TLB, TPR and BIOSReserved1/2 are 0, where the spec says `any`. DEDUCED (log 6): a Halted
processor holds the same values, which nothing can observe. -/
def Cpu.atReset (cfg : Config) (p : Nat) (power : Power) : Cpu where
  prid := BitVec.ofNat 4 p
  gpr := Vector.replicate 32 0
  hi := 0
  lo := 0
  pc := 0x1FC00000#32
  npc := 0x1FC00004#32
  inDelay := false
  index := 0
  random := BitVec.ofNat 6 (cfg.tlbSize - 1)
  entryLo := 0
  badVAddr := 0
  timer := 0
  entryHi := 0
  status := 0x10400000#32
  cause := 0
  epc := 0
  tlb := Vector.replicate 64 { hi := 0, lo := 0 }
  power := power
  pltPending := false
  loadDelay := none
  ipiQueue := []
  tpr := 0
  biosReserved1 := 0
  biosReserved2 := 0
  signalled := false

/-- The machine with the default configuration (R9, R10) right after reset (R65): no ROM or core image is in the
spec, so none is loaded (log 8, log 9), and no device is installed (log 40). -/
def State.reset : State where
  cfg := {}
  cpu := Cpu.atReset {} 0 .running
  todo := []
  done := []
  mem := { cells := [] }
  tod := 0
  intervalTimer := 0xFFFFFFFF#32
  itReq := IntReq.none
  irt := Vector.replicate 48 0
  bootPc := 0
  bootSp := 0
  powerOffAt := none
  stopped := false
  devices := []
  inputs := []
  now := 0
  draws := 0

end Sys2Proof.Machine
end

