-- ==== Sys2Proof/Machine/Flags.lean ====
section
/-! DEFINITION. µMPS3 has no condition flags (spec/10_state.md R28). What stands here is what other machines
keep in flags: the overflow and comparison results of the ALU (spec/40_alu.md), the signed and unsigned
products and quotients (spec/41_muldiv.md), and the fields of the Status register (R31-R37) with the push and
pop of its KU/IE stack (R32). -/

namespace Sys2Proof.Machine

/-! ## Overflow, comparison, product, quotient -/

/-- An exact integer is not a 32-bit two's complement value: the OV condition of R171, R173 and R181. -/
def overflows (n : Int) : Bool := decide (n < -2147483648 ∨ 2147483647 < n)

/-- The result of the set-on-less-than instructions: 1 or 0 (R195). -/
def boolWord (b : Bool) : Word := if b then 1 else 0

/-- `signed(a) < signed(b)` (R179). -/
def lessSigned (a b : Word) : Bool := decide (a.toInt < b.toInt)

/-- `unsigned(a) < unsigned(b)` (R180). -/
def lessUnsigned (a b : Word) : Bool := decide (a.toNat < b.toNat)

/-- The 64-bit signed product (R211). -/
def signedProduct (a b : Word) : BitVec 64 := BitVec.ofInt 64 (a.toInt * b.toInt)

/-- The 64-bit unsigned product (R212). -/
def unsignedProduct (a b : Word) : BitVec 64 := BitVec.ofNat 64 (a.toNat * b.toNat)

/-- The upper word of a product, for HI (R211). -/
def upperHalf (p : BitVec 64) : Word := p.extractLsb' 32 32

/-- The lower word of a product, for LO (R211). -/
def lowerHalf (p : BitVec 64) : Word := p.extractLsb' 0 32

/-- DIV has a defined result: the divisor is not 0 and the quotient is representable (R213). -/
def divDefined (n d : Word) : Bool := d != 0 && !(n == 0x80000000#32 && d == 0xFFFFFFFF#32)

/-- The quotient of DIV, truncated toward zero (R213). -/
def signedQuotient (n d : Word) : Word := BitVec.ofInt 32 (Int.tdiv n.toInt d.toInt)

/-- The remainder of DIV, with the sign of the dividend (R213). -/
def signedRemainder (n d : Word) : Word := BitVec.ofInt 32 (Int.tmod n.toInt d.toInt)

/-- The quotient of DIVU (R214). -/
def unsignedQuotient (n d : Word) : Word := BitVec.ofNat 32 (n.toNat / d.toNat)

/-- The remainder of DIVU (R214). -/
def unsignedRemainder (n d : Word) : Word := BitVec.ofNat 32 (n.toNat % d.toNat)

/-! ## Status -/

/-- Status.IEc, bit 0 (R32). -/
def statusIEc (st : Word) : Bool := st.getLsbD 0

/-- Status.KUc, bit 1: user mode (R32, R360). -/
def statusKUc (st : Word) : Bool := st.getLsbD 1

/-- Status.IM, bits 15:8 (R33). -/
def statusIM (st : Word) : BitVec 8 := st.extractLsb' 8 8

/-- Status.BEV, bit 22 (R34). -/
def statusBEV (st : Word) : Bool := st.getLsbD 22

/-- Status.TE, bit 27 (R35). -/
def statusTE (st : Word) : Bool := st.getLsbD 27

/-- Status.CU[0], bit 28 (R36). -/
def statusCU0 (st : Word) : Bool := st.getLsbD 28

/-- The named writable bits of Status: KU/IE stack, IM, BEV, TE, CU[0] (R31, R264). -/
def statusNamed : Word := 0x1840FF3F#32

/-- The bits of Status with no name: 7:6, 21:16, 26:23 (R37). -/
def statusUnnamed : Word := 0x07BF00C0#32

/-- The push of exception entry: `Status[5:0] <- Status[3:0] ‖ 00` (R32, R340). -/
def pushKuIe (st : Word) : Word := mergeBits 0x3F#32 st ((st &&& 0xF#32) <<< 2)

/-- The pop of RFE: `Status[3:0] <- Status[5:2]`, bits 5:4 unchanged (R32, R269). -/
def popKuIe (st : Word) : Word := mergeBits 0xF#32 st (st >>> 2)

/-! ## Cause, EntryHi, EntryLo, Index -/

/-- The stored bits of Cause: BD 31, CE 29:28, ExcCode 6:2 (R38). -/
def causeStored : Word := 0xB000007C#32

/-- The bits of EntryHi that exist: VPN 31:12, ASID 11:6 (R43). -/
def entryHiMask : Word := 0xFFFFFFC0#32

/-- The bits of EntryLo that exist: PFN 31:12, N, D, V, G 11:8 (R44). -/
def entryLoMask : Word := 0xFFFFFF00#32

/-- The bits of Index that exist: P 31, TLB-Index 13:8 (R42). -/
def indexMask : Word := 0x80003F00#32

/-- The VPN of an EntryHi word or of a logical address, bits 31:12 (R43, R84). -/
def vpnOf (w : Word) : BitVec 20 := w.extractLsb' 12 20

/-- The ASID of an EntryHi word, bits 11:6 (R43). -/
def asidOf (w : Word) : BitVec 6 := w.extractLsb' 6 6

/-- The page offset of an address, bits 11:0 (R84). -/
def offsetOf (w : Word) : BitVec 12 := w.extractLsb' 0 12

/-- The PFN of an EntryLo word, bits 31:12 (R44). -/
def pfnOf (w : Word) : BitVec 20 := w.extractLsb' 12 20

/-- EntryLo.D, bit 10: writable (R44). -/
def entryD (lo : Word) : Bool := lo.getLsbD 10

/-- EntryLo.V, bit 9: valid (R44). -/
def entryV (lo : Word) : Bool := lo.getLsbD 9

/-- EntryLo.G, bit 8: matches any ASID (R44). -/
def entryG (lo : Word) : Bool := lo.getLsbD 8

/-- Index.TLB-Index or the register form of Random.TLB-Index, bits 13:8 (R41, R42). -/
def tlbIndexOf (w : Word) : TlbIx := w.extractLsb' 8 6

/-- A TLB index placed at bits 13:8 (R41, R42). -/
def tlbIndexWord (i : TlbIx) : Word := i.setWidth 32 <<< 8

end Sys2Proof.Machine
end

