-- ==== Sys2Proof/Machine/Ops.lean ====
section
/-! DEFINITION. The named operations over memory and registers that every meaning is built from: memory bytes
(spec/20_memory.md R100), general registers with the load delay (R21, R233), the program counter (R26), taking
an exception (spec/60_exceptions.md R340) and the return from one (R269), and address translation (R110). -/

namespace Sys2Proof.Machine

/-- The outcome of an instruction or a step. -/
abbrev Out := Host.Outcome State Fault Refusal

/-- The result of an operation that may raise an exception or be refused. -/
inductive Res (α : Type) where
  | ok (a : α)
  | exc (e : Exc)
  | refuse (r : Refusal)
  deriving Repr

/-! ## Memory bytes -/

/-- The first entry for an address in a list of cells. -/
def lookupCell : List Host.Cell → Nat → Byte
  | [], _ => Memory.unlisted
  | (b, v) :: rest, a => if a = b then v else lookupCell rest a

/-- The byte at an address. -/
def Memory.read (m : Memory) (a : Nat) : Byte := lookupCell m.cells a

/-- Put a cell in its place in a list of cells with rising addresses. -/
def insertCell (a : Nat) (v : Byte) : List Host.Cell → List Host.Cell
  | [] => [(a, v)]
  | (b, w) :: rest =>
    if a < b then (a, v) :: (b, w) :: rest
    else if a = b then (a, v) :: rest
    else (b, w) :: insertCell a v rest

/-- Remove the cells of an address. -/
def eraseCell (a : Nat) : List Host.Cell → List Host.Cell
  | [] => []
  | (b, w) :: rest => if a = b then eraseCell a rest else (b, w) :: eraseCell a rest

/-- Write one byte, keeping the canonical form. -/
def Memory.write (m : Memory) (a : Nat) (v : Byte) : Memory :=
  if v = Memory.unlisted then { cells := eraseCell a m.cells } else { cells := insertCell a v m.cells }

/-- The `n` bytes from an address on. -/
def Memory.readBytes (m : Memory) (a : Nat) : Nat → List Byte
  | 0 => []
  | n + 1 => m.read a :: m.readBytes (a + 1) n

/-- Write bytes from an address on. -/
def Memory.writeBytes (m : Memory) (a : Nat) : List Byte → Memory
  | [] => m
  | b :: bs => (m.write a b).writeBytes (a + 1) bs

/-- The halfword at an address (R100). -/
def Memory.readHalf (big : Bool) (m : Memory) (a : Nat) : Half :=
  if big then m.read a ++ m.read (a + 1) else m.read (a + 1) ++ m.read a

/-- The word at an address (R100). -/
def Memory.readWord (big : Bool) (m : Memory) (a : Nat) : Word :=
  wordOfBytes big (m.read a) (m.read (a + 1)) (m.read (a + 2)) (m.read (a + 3))

/-- Write byte lane `j` of a word if it is selected. -/
def Memory.writeLane (big : Bool) (m : Memory) (a : Nat) (v : Word) (sel : Nat → Bool) (j : Nat) : Memory :=
  if sel j then m.write (a + laneOffset big j) (laneOf v j) else m

/-- Write the selected byte lanes of a word; the other bytes are not touched (R104). -/
def Memory.writeLanes (big : Bool) (m : Memory) (a : Nat) (v : Word) (sel : Nat → Bool) : Memory :=
  let m0 := m.writeLane big a v sel 0
  let m1 := m0.writeLane big a v sel 1
  let m2 := m1.writeLane big a v sel 2
  m2.writeLane big a v sel 3

/-- Write a word (R100). -/
def Memory.writeWord (big : Bool) (m : Memory) (a : Nat) (v : Word) : Memory :=
  m.writeLanes big a v (fun _ => true)

/-- Write a halfword (R100). -/
def Memory.writeHalf (big : Bool) (m : Memory) (a : Nat) (v : Half) : Memory :=
  if big then (m.write a (v.extractLsb' 8 8)).write (a + 1) (v.extractLsb' 0 8)
  else (m.write a (v.extractLsb' 0 8)).write (a + 1) (v.extractLsb' 8 8)

/-! ## General registers -/

/-- The value of a general register; register 0 reads 0 (R21). -/
def Cpu.reg (c : Cpu) (r : Reg) : Word := if r = 0 then 0 else c.gpr[r.toNat]'(r.isLt)

/-- Write a general register; register 0 ignores writes (R21). -/
def Cpu.setReg (c : Cpu) (r : Reg) (v : Word) : Cpu :=
  if r = 0 then c else { c with gpr := c.gpr.set r.toNat v r.isLt }

/-- The value an instruction reads from a source register. In the delay slot of a load the loaded register reads
as its old or its new value, a free choice (R233, log 11). -/
def Cpu.src (c : Cpu) (r : Reg) : Word :=
  match c.loadDelay with
  | none => c.reg r
  | some d => if r ≠ 0 ∧ r = d.reg ∧ Config.freeBit d.draw = true then d.old else c.reg r

/-! ## The program counter -/

/-- The end of an instruction that is no branch (R26); the load delay slot ends with it (R233). -/
def Cpu.advance (c : Cpu) : Cpu :=
  { c with pc := c.npc, npc := c.npc + 4, inDelay := false, loadDelay := none }

/-- The end of a branch or jump: to `target` if there is one, after the delay slot (R26, R240). -/
def Cpu.branch (c : Cpu) (target : Option Word) : Cpu :=
  { c with pc := c.npc, npc := target.getD (c.npc + 4), inDelay := true, loadDelay := none }

/-! ## Updates of the state -/

/-- `n` free values have been used up (log 10). -/
def State.drawn (s : State) (n : Nat) : State := { s with draws := s.draws + n }

/-- The same update of every processor. -/
def State.mapCpus (f : Cpu → Cpu) (s : State) : State :=
  { s with cpu := f s.cpu, todo := s.todo.map f, done := s.done.map f }

/-- Every processor of the machine. -/
def State.allCpus (s : State) : List Cpu := s.cpu :: (s.todo ++ s.done)

/-- The instruction completes with no register result. -/
def State.retire (s : State) : State := { s with cpu := s.cpu.advance }

/-- The instruction completes and writes a general register. -/
def State.retireReg (s : State) (r : Reg) (v : Word) : State := { s with cpu := s.cpu.advance.setReg r v }

/-- A load (or MFC0) completes: the register is written, and the next instruction is in its load delay slot
(R233). -/
def State.retireLoad (s : State) (r : Reg) (v : Word) : State :=
  { s with
    cpu := { s.cpu.advance.setReg r v with
      loadDelay := if r = 0 then none else some { reg := r, old := s.cpu.reg r, draw := s.draws } }
    draws := s.draws + 1 }

/-- HI and LO are written and the instruction completes. -/
def State.retireHiLo (s : State) (hi lo : Word) : State :=
  { s with cpu := { s.cpu.advance with hi := hi, lo := lo } }

/-- A branch or jump completes. -/
def State.retireBranch (s : State) (target : Option Word) : State := { s with cpu := s.cpu.branch target }

/-- A branch or jump that links completes (R243, R252). -/
def State.retireLink (s : State) (r : Reg) (target : Option Word) : State :=
  { s with cpu := (s.cpu.branch target).setReg r (linkValue s.cpu.pc) }

/-! ## Taking an exception -/

/-- Cause.ExcCode (R331, R335). -/
def Exc.code : Exc → BitVec 5
  | .int => 0
  | .mod _ => 1
  | .tlbInvalid .store _ => 3
  | .tlbInvalid _ _ => 2
  | .tlbRefill .store _ => 3
  | .tlbRefill _ _ => 2
  | .addressError .store _ => 5
  | .addressError _ _ => 4
  | .busError .fetch _ => 6
  | .busError _ _ => 7
  | .sys => 8
  | .bp => 9
  | .ri => 10
  | .copUnusable _ => 11
  | .ov => 12

/-- A TLB-Refill event, which has its own vector (R330, R341). -/
def Exc.isRefill : Exc → Bool
  | .tlbRefill _ _ => true
  | _ => false

/-- The address loaded into BadVAddr (R343). -/
def Exc.badAddr : Exc → Option Word
  | .mod va | .tlbInvalid _ va | .tlbRefill _ va | .addressError _ va | .busError _ va => some va
  | _ => none

/-- The address whose page number is loaded into EntryHi.VPN (R343). -/
def Exc.pageAddr : Exc → Option Word
  | .mod va | .tlbInvalid _ va | .tlbRefill _ va => some va
  | _ => none

/-- The coprocessor number loaded into Cause.CE (R343). -/
def Exc.copNumber : Exc → Option (BitVec 2)
  | .copUnusable z => some z
  | _ => none

/-- The address an exception enters (R341). -/
def vectorOf (st : Word) (refill : Bool) : Word :=
  (if statusBEV st then 0x1FC00100#32 else 0#32) + (if refill then 0#32 else 0x80#32)

/-- Cause after an entry: BD and ExcCode are written, CE only by CpU (R340, R342, R343, D9). -/
def causeAfter (c : Cpu) (e : Exc) : Word :=
  let bd := mergeBits 0x80000000#32 c.cause (if c.inDelay then 0x80000000#32 else 0)
  let code := mergeBits 0x7C#32 bd (e.code.setWidth 32 <<< 2)
  match e.copNumber with
  | some z => mergeBits 0x30000000#32 code (z.setWidth 32 <<< 28)
  | none => code

/-- Exception entry (R340): EPC and Cause.BD (R342), Cause.ExcCode, the extras of R343, the push of the KU/IE
stack, and the vector (R341). A load in flight is not lost: the handler sees the loaded value (R233). -/
def Cpu.enter (c : Cpu) (e : Exc) : Cpu :=
  let vector := vectorOf c.status e.isRefill
  { c with
    epc := if c.inDelay then c.pc - 4 else c.pc
    cause := causeAfter c e
    badVAddr := e.badAddr.getD c.badVAddr
    entryHi := match e.pageAddr with
      | some va => mergeBits 0xFFFFF000#32 c.entryHi va
      | none => c.entryHi
    status := pushKuIe c.status
    pc := vector
    npc := vector + 4
    inDelay := false
    loadDelay := none }

/-- The processor takes an exception (R340); nothing else changes (R344). -/
def State.enter (s : State) (e : Exc) : State := { s with cpu := s.cpu.enter e }

/-- The return from an exception that RFE performs: the pop of the KU/IE stack (R269, R355). -/
def Cpu.returnFromException (c : Cpu) : Cpu := { c with status := popKuIe c.status }

/-! ## Translation -/

/-- The width of an access (R104). -/
inductive Width where
  | byte | half | word
  deriving DecidableEq, Repr

/-- The bytes an access of the width covers (R104). -/
def Width.bytes : Width → Nat
  | .byte => 1
  | .half => 2
  | .word => 4

/-- An address is aligned for the width (R102). -/
def Width.aligned : Width → Word → Bool
  | .byte, _ => true
  | .half, va => va.extractLsb' 0 1 == 0
  | .word, va => va.extractLsb' 0 2 == 0

/-- A logical address is translated rather than used as a physical address (R110 step 3, R116). -/
def mapped (cfg : Config) (va : Word) : Bool :=
  match cfg.tlbFloor with
  | .vmOff => false
  | .kuseg => decide (0x80000000 ≤ va.toNat)
  | .kseg2 => decide (0x40000000 ≤ va.toNat)
  | .ramTop => decide (cfg.ramTop ≤ va.toNat)

/-- A slot of the TLB. -/
def Cpu.tlbGet (c : Cpu) (i : TlbIx) : TlbEntry := c.tlb[i.toNat]'(i.isLt)

/-- Write a slot of the TLB. -/
def Cpu.tlbSet (c : Cpu) (i : TlbIx) (e : TlbEntry) : Cpu := { c with tlb := c.tlb.set i.toNat e i.isLt }

/-- An entry matches a page number under an ASID (R112). -/
def TlbEntry.matchesPage (e : TlbEntry) (vpn : BitVec 20) (asid : BitVec 6) : Bool :=
  vpnOf e.hi == vpn && (entryG e.lo || asidOf e.hi == asid)

/-- The highest-numbered matching slot below `n` (R113). -/
def Cpu.tlbFind (c : Cpu) (vpn : BitVec 20) (asid : BitVec 6) : Nat → Option TlbIx
  | 0 => none
  | n + 1 =>
    if (c.tlbGet (BitVec.ofNat 6 n)).matchesPage vpn asid then some (BitVec.ofNat 6 n)
    else c.tlbFind vpn asid n

/-- The slot that the address translation or TLBP finds for a page (R112, R113, R268). -/
def Cpu.tlbProbe (cfg : Config) (c : Cpu) (vpn : BitVec 20) : Option TlbIx :=
  c.tlbFind vpn (asidOf c.entryHi) cfg.tlbSize

/-- The TLB part of the translation, steps 4 and 5 of R110. -/
def translateMapped (cfg : Config) (c : Cpu) (k : Access) (va : Word) : Except Exc Word :=
  match c.tlbProbe cfg (vpnOf va) with
  | none => .error (.tlbRefill k va)
  | some i =>
    let lo := (c.tlbGet i).lo
    if !entryV lo then .error (.tlbInvalid k va)
    else if k = .store ∧ entryD lo = false then .error (.mod va)
    else
      let pa := pfnOf lo ++ offsetOf va
      if pa.toNat < 0x20000000 ∧ statusKUc c.status = true then .error (.addressError k va) else .ok pa

/-- `Translate(va, kind, n)` (R110): the physical address, or the exception. -/
def translateAddr (cfg : Config) (c : Cpu) (k : Access) (w : Width) (va : Word) : Except Exc Word :=
  if !w.aligned va then .error (.addressError k va)
  else if statusKUc c.status = true ∧ va.toNat < 0x80000000 then .error (.addressError k va)
  else if mapped cfg va then translateMapped cfg c k va
  else .ok va

/-! ## CP0 usability -/

/-- `CP0Usable()` (R36, R260). -/
def Cpu.cp0Usable (c : Cpu) : Bool := !statusKUc c.status || statusCU0 c.status

/-- A coprocessor-0 instruction: CpU with CE = 0 where CP0 is not usable, else its effect (R260, C6). -/
def State.withCp0 (s : State) (effect : Out) : Out :=
  if s.cpu.cp0Usable then effect else .next (s.enter (.copUnusable 0))

/-- A jump or branch: refused in a delay slot (R254, D16), else its effect. -/
def State.notInDelay (s : State) (effect : Out) : Out :=
  if s.cpu.inDelay then .refused .branchInDelaySlot else effect

end Sys2Proof.Machine
end

