-- ==== Sys2Proof/Machine/Alu.lean ====
section
/-! DEFINITION. The integer arithmetic, logic, comparison and shift instructions (spec/40_alu.md). Source registers
are read before the destination is written; a destination of register 0 discards the result (R170). -/

namespace Sys2Proof.Machine

/-- The end of ADD, SUB and ADDI with the exact result `n`: OV if it is not a 32-bit two's complement value, with the
destination not written (R171, R173, R181). -/
def State.trapOrWrite (s : State) (rd : Reg) (n : Int) : Out :=
  if overflows n then .next (s.enter .ov) else .next (s.retireReg rd (BitVec.ofInt 32 n))

/-! ## Three registers -/

/-- ADD (R171). -/
def execAdd (rd rs rt : Reg) (s : State) : Out :=
  s.trapOrWrite rd ((s.cpu.src rs).toInt + (s.cpu.src rt).toInt)

/-- ADDU (R172). -/
def execAddu (rd rs rt : Reg) (s : State) : Out :=
  .next (s.retireReg rd (s.cpu.src rs + s.cpu.src rt))

/-- SUB (R173). -/
def execSub (rd rs rt : Reg) (s : State) : Out :=
  s.trapOrWrite rd ((s.cpu.src rs).toInt - (s.cpu.src rt).toInt)

/-- SUBU (R174). -/
def execSubu (rd rs rt : Reg) (s : State) : Out :=
  .next (s.retireReg rd (s.cpu.src rs - s.cpu.src rt))

/-- AND (R175). -/
def execAnd (rd rs rt : Reg) (s : State) : Out :=
  .next (s.retireReg rd (s.cpu.src rs &&& s.cpu.src rt))

/-- OR (R176). -/
def execOr (rd rs rt : Reg) (s : State) : Out :=
  .next (s.retireReg rd (s.cpu.src rs ||| s.cpu.src rt))

/-- XOR (R177). -/
def execXor (rd rs rt : Reg) (s : State) : Out :=
  .next (s.retireReg rd (s.cpu.src rs ^^^ s.cpu.src rt))

/-- NOR (R178). -/
def execNor (rd rs rt : Reg) (s : State) : Out :=
  .next (s.retireReg rd (~~~(s.cpu.src rs ||| s.cpu.src rt)))

/-- SLT (R179). -/
def execSlt (rd rs rt : Reg) (s : State) : Out :=
  .next (s.retireReg rd (boolWord (lessSigned (s.cpu.src rs) (s.cpu.src rt))))

/-- SLTU (R180). -/
def execSltu (rd rs rt : Reg) (s : State) : Out :=
  .next (s.retireReg rd (boolWord (lessUnsigned (s.cpu.src rs) (s.cpu.src rt))))

/-! ## Immediates -/

/-- ADDI (R181, C20). -/
def execAddi (rt rs : Reg) (imm : Half) (s : State) : Out :=
  s.trapOrWrite rt ((s.cpu.src rs).toInt + (sext16 imm).toInt)

/-- ADDIU (R182). -/
def execAddiu (rt rs : Reg) (imm : Half) (s : State) : Out :=
  .next (s.retireReg rt (s.cpu.src rs + sext16 imm))

/-- SLTI (R183). -/
def execSlti (rt rs : Reg) (imm : Half) (s : State) : Out :=
  .next (s.retireReg rt (boolWord (lessSigned (s.cpu.src rs) (sext16 imm))))

/-- SLTIU (R184). -/
def execSltiu (rt rs : Reg) (imm : Half) (s : State) : Out :=
  .next (s.retireReg rt (boolWord (lessUnsigned (s.cpu.src rs) (sext16 imm))))

/-- ANDI (R185). -/
def execAndi (rt rs : Reg) (imm : Half) (s : State) : Out :=
  .next (s.retireReg rt (s.cpu.src rs &&& zext16 imm))

/-- ORI (R186). -/
def execOri (rt rs : Reg) (imm : Half) (s : State) : Out :=
  .next (s.retireReg rt (s.cpu.src rs ||| zext16 imm))

/-- XORI (R187). -/
def execXori (rt rs : Reg) (imm : Half) (s : State) : Out :=
  .next (s.retireReg rt (s.cpu.src rs ^^^ zext16 imm))

/-- LUI (R188). -/
def execLui (rt : Reg) (imm : Half) (s : State) : Out :=
  .next (s.retireReg rt (upper16 imm))

/-! ## Shifts -/

/-- SLL (R189). -/
def execSll (rd rt : Reg) (sa : BitVec 5) (s : State) : Out :=
  .next (s.retireReg rd (s.cpu.src rt <<< sa.toNat))

/-- SRL (R190). -/
def execSrl (rd rt : Reg) (sa : BitVec 5) (s : State) : Out :=
  .next (s.retireReg rd (s.cpu.src rt >>> sa.toNat))

/-- SRA (R191). -/
def execSra (rd rt : Reg) (sa : BitVec 5) (s : State) : Out :=
  .next (s.retireReg rd ((s.cpu.src rt).sshiftRight sa.toNat))

/-- SLLV (R192). -/
def execSllv (rd rt rs : Reg) (s : State) : Out :=
  .next (s.retireReg rd (s.cpu.src rt <<< shiftCount (s.cpu.src rs)))

/-- SRLV (R193). -/
def execSrlv (rd rt rs : Reg) (s : State) : Out :=
  .next (s.retireReg rd (s.cpu.src rt >>> shiftCount (s.cpu.src rs)))

/-- SRAV (R194). -/
def execSrav (rd rt rs : Reg) (s : State) : Out :=
  .next (s.retireReg rd ((s.cpu.src rt).sshiftRight (shiftCount (s.cpu.src rs))))

end Sys2Proof.Machine
end

