-- ==== Sys2Proof/Machine/Branch.lean ====
section
/-! DEFINITION. The jumps and branches (spec/43_branch_jump.md), each with a delay slot (R240). In a delay slot they are
refused (R254). -/

namespace Sys2Proof.Machine

/-- A conditional branch: in both cases the next instruction is in its delay slot (R240, R241). -/
def State.branchIf (s : State) (taken : Bool) (off : Half) : Out :=
  s.notInDelay (.next (s.retireBranch (if taken then some (branchTarget s.cpu.pc off) else none)))

/-- A conditional branch that links: `ra` is written whether or not it is taken; refused with rs = 31 (R252, R253,
D28). -/
def State.branchLinkIf (s : State) (rs : Reg) (taken : Bool) (off : Half) : Out :=
  s.notInDelay
    (if rs = 31 then .refused .notRestartable
     else .next (s.retireLink 31 (if taken then some (branchTarget s.cpu.pc off) else none)))

/-! ## Jumps -/

/-- J (R242). -/
def execJ (target : BitVec 26) (s : State) : Out :=
  s.notInDelay (.next (s.retireBranch (some (jumpTarget s.cpu.pc target))))

/-- JAL (R243). -/
def execJal (target : BitVec 26) (s : State) : Out :=
  s.notInDelay (.next (s.retireLink 31 (some (jumpTarget s.cpu.pc target))))

/-- JR (R244). -/
def execJr (rs : Reg) (s : State) : Out :=
  s.notInDelay (.next (s.retireBranch (some (s.cpu.src rs))))

/-- JALR (R245). Refused with rs = rd (D28). -/
def execJalr (rd rs : Reg) (s : State) : Out :=
  s.notInDelay
    (if rs = rd then .refused .notRestartable else .next (s.retireLink rd (some (s.cpu.src rs))))

/-! ## Branches -/

/-- BEQ (R246). -/
def execBeq (rs rt : Reg) (off : Half) (s : State) : Out :=
  s.branchIf (s.cpu.src rs == s.cpu.src rt) off

/-- BNE (R247). -/
def execBne (rs rt : Reg) (off : Half) (s : State) : Out :=
  s.branchIf (s.cpu.src rs != s.cpu.src rt) off

/-- BLEZ (R248). -/
def execBlez (rs : Reg) (off : Half) (s : State) : Out :=
  s.branchIf (decide ((s.cpu.src rs).toInt ≤ 0)) off

/-- BGTZ (R249). -/
def execBgtz (rs : Reg) (off : Half) (s : State) : Out :=
  s.branchIf (decide (0 < (s.cpu.src rs).toInt)) off

/-- BLTZ (R250). -/
def execBltz (rs : Reg) (off : Half) (s : State) : Out :=
  s.branchIf ((s.cpu.src rs).getLsbD 31) off

/-- BGEZ (R251). -/
def execBgez (rs : Reg) (off : Half) (s : State) : Out :=
  s.branchIf (!(s.cpu.src rs).getLsbD 31) off

/-- BLTZAL (R252). -/
def execBltzal (rs : Reg) (off : Half) (s : State) : Out :=
  s.branchLinkIf rs ((s.cpu.src rs).getLsbD 31) off

/-- BGEZAL (R253). -/
def execBgezal (rs : Reg) (off : Half) (s : State) : Out :=
  s.branchLinkIf rs (!(s.cpu.src rs).getLsbD 31) off

end Sys2Proof.Machine
end

