-- ==== Sys2Proof/Machine/Interrupts.lean ====
section
/-! DEFINITION. Interrupts: routing by the Interrupt Routing Table (spec/60_exceptions.md R388-R390), the live
view Cause.IP (spec/10_state.md R39), acceptance (R351), and what happens when a request becomes pending. -/

namespace Sys2Proof.Machine

/-! ## Devices by number -/

/-- The installed device with this number, if any (R405). -/
def State.device (s : State) (n : Nat) : Option Device := s.devices.lookup n

/-- Replace an installed device. -/
def State.setDevice (s : State) (n : Nat) (d : Device) : State :=
  { s with devices := s.devices.map fun p => if p.1 = n then (p.1, d) else p }

/-- The interrupt requests of a device: one, or two for a terminal (R413). -/
def Device.reqs : Device → List IntReq
  | .disk d => [d.ctl.req]
  | .flash d => [d.ctl.req]
  | .network d => [d.ctl.req]
  | .printer d => [d.ctl.req]
  | .terminal d => [d.recv.req, d.transm.req]

/-- The IRT entry of the device with this number: `(i - 2) * 8 + j` for device j on line i (R388). -/
def irtOfDevice (n : Nat) : Nat := n + 8

/-- The interrupt line of the device with this number (R400). -/
def lineOfDevice (n : Nat) : Nat := n / 8 + 3

/-! ## Routing -/

/-- An entry of the Interrupt Routing Table. -/
def State.irtEntry (s : State) (e : Nat) : Word := s.irt[e]?.getD 0

/-- RP, bit 28: dynamic routing (R388, R390). -/
def irtDynamic (w : Word) : Bool := w.getLsbD 28

/-- The processor a statically routed interrupt goes to: `Destination[3:0]` (R389). -/
def irtStaticDest (w : Word) : CpuId := w.extractLsb' 0 4

/-- Processor `p` is in the mask of a dynamic entry (R390). -/
def irtMask (w : Word) (p : CpuId) : Bool := w.getLsbD p.toNat

/-- A request on IRT entry `e` is seen by processor `p` (R389, R390). -/
def State.delivered (s : State) (e : Nat) (req : IntReq) (p : CpuId) : Bool :=
  req.pending &&
    (if irtDynamic (s.irtEntry e) then req.owner == some p else irtStaticDest (s.irtEntry e) == p)

/-- The existing, non-Halted processors in the mask of an entry (R390). -/
def State.contestants (s : State) (e : Nat) : List Cpu :=
  s.allCpus.filter fun c => c.power != .halted && irtMask (s.irtEntry e) c.prid

/-- The greatest TPR.Priority of a list of processors: the lowest-priority task (R390). -/
def maxPriority (cs : List Cpu) : Nat := (cs.map fun c => c.tpr.toNat).foldl max 0

/-- The processor chosen for a dynamically routed interrupt, a free choice on a tie (R390, log 28). -/
def State.chooseOwner (s : State) (e : Nat) : Option CpuId × State :=
  let cs := s.contestants e
  match cs.filter fun c => c.tpr.toNat == maxPriority cs with
  | [] => (none, s)
  | [c] => (some c.prid, s)
  | c :: rest =>
    let tied := c :: rest
    ((tied[Config.freeNat s.draws % tied.length]?).map Cpu.prid, s.drawn 1)

/-! ## A request becomes pending -/

/-- Note on every processor that sees the request that an interrupt has been signalled (R270). -/
def State.signal (s : State) (e : Nat) (req : IntReq) : State :=
  s.mapCpus fun c => if s.delivered e req c.prid then { c with signalled := true } else c

/-- A source raises its interrupt: the request as it is then, and the machine with the processors it reaches
signalled. A request that is already pending stays with its processor (R390). -/
def State.raiseReq (s : State) (e : Nat) (req : IntReq) : IntReq × State :=
  if req.pending then (req, s.signal e req)
  else if irtDynamic (s.irtEntry e) then
    let (o, s1) := s.chooseOwner e
    ({ pending := true, owner := o }, s1.signal e { pending := true, owner := o })
  else ({ pending := true, owner := none }, s.signal e { pending := true, owner := none })

/-- A request under a rewritten IRT entry: a static entry moves it at once; a dynamic one keeps the processor it
was given to, or chooses one now if it has none (R389, R390, log 28). -/
def State.rerouteReq (s : State) (e : Nat) (req : IntReq) : IntReq × State :=
  if !req.pending then (req, s)
  else if irtDynamic (s.irtEntry e) then
    match req.owner with
    | some _ => (req, s)
    | none => let (o, s1) := s.chooseOwner e; ({ req with owner := o }, s1)
  else ({ req with owner := none }, s)

/-- The requests of a device replaced by a function that also updates the state. -/
def Device.rerouted (s : State) (e : Nat) : Device → Device × State
  | .disk d => let (r, s1) := s.rerouteReq e d.ctl.req; (.disk { d with ctl := { d.ctl with req := r } }, s1)
  | .flash d => let (r, s1) := s.rerouteReq e d.ctl.req; (.flash { d with ctl := { d.ctl with req := r } }, s1)
  | .network d => let (r, s1) := s.rerouteReq e d.ctl.req; (.network { d with ctl := { d.ctl with req := r } }, s1)
  | .printer d => let (r, s1) := s.rerouteReq e d.ctl.req; (.printer { d with ctl := { d.ctl with req := r } }, s1)
  | .terminal d =>
    let (r1, s1) := s.rerouteReq e d.recv.req
    let (r2, s2) := s1.rerouteReq e d.transm.req
    (.terminal { d with recv := { d.recv with req := r1 }, transm := { d.transm with req := r2 } }, s2)

/-! ## Cause.IP and acceptance -/

/-- Some device on line `l` has a request that processor `p` sees (R39, R413). -/
def State.lineFromDevices (s : State) (l : Nat) (p : CpuId) : Bool :=
  s.devices.any fun d => lineOfDevice d.1 == l && d.2.reqs.any fun r => s.delivered (irtOfDevice d.1) r p

/-- Interrupt line `l` is pending on a processor (R39, R353). -/
def State.linePending (s : State) (c : Cpu) : Nat → Bool
  | 0 => !c.ipiQueue.isEmpty
  | 1 => c.pltPending && statusTE c.status
  | 2 => s.delivered 0 s.itReq c.prid
  | l => s.lineFromDevices l c.prid

/-- Cause.IP of a processor, bit `i` for line `i` (R39). -/
def State.causeIP (s : State) (c : Cpu) : BitVec 8 := bits8 (s.linePending c)

/-- `IntAccepted` (R351). -/
def State.intAccepted (s : State) : Bool :=
  statusIEc s.cpu.status && (s.causeIP s.cpu &&& statusIM s.cpu.status) != 0

/-! ## A store to the table -/

/-- The requests behind IRT entry `e` under its new value: entry 0 is the Interval Timer's, entries 1 to 7 have no
source, the others belong to one device each (R388). -/
def State.reroute (s : State) (e : Nat) : State :=
  if e = 0 then
    let (r, s1) := s.rerouteReq 0 s.itReq
    { s1 with itReq := r }
  else if e < 8 then s
  else
    match s.device (e - 8) with
    | none => s
    | some d => let (d1, s1) := Device.rerouted s e d; s1.setDevice (e - 8) d1

/-- Note on every processor that has a pending line it did not have in `old` that an interrupt has been signalled
(R270). -/
def State.signalRises (s old : State) : State :=
  s.mapCpus fun c => if s.causeIP c &&& ~~~(old.causeIP c) = 0 then c else { c with signalled := true }

/-- A store to IRT entry `e` (R388, R389): a still pending interrupt moves to the processor the entry now names
(D32). -/
def State.writeIrt (s : State) (e : Nat) (v : Word) : State :=
  (State.reroute { s with irt := s.irt.setIfInBounds e v } e).signalRises s

end Sys2Proof.Machine
end

