-- ==== Sys2Proof/Machine/Devices.lean ====
section
/-! DEFINITION. The device controllers (spec/61_devices.md): what the words of a device register read (R401,
R412), what a store to them does (R407-R409), how an operation completes (R410, R411 and the command tables
R422, R432, R438, R446, R452), and what the host's characters and packets do (R439, R454). -/

namespace Sys2Proof.Machine

/-! ## Common structure -/

/-- The command code of a COMMAND word: bits 7:0 (R408). -/
def cmdCode (v : Word) : Nat := (v.extractLsb' 0 8).toNat

/-- STATUS 1, Device Ready (R412). -/
def stReady : Word := 1
/-- STATUS 2, Illegal Operation Code Error (R412). -/
def stIllegal : Word := 2
/-- STATUS 3, Device Busy (R412). -/
def stBusy : Word := 3

/-- A controller that is executing a command: its registers are frozen (R407). -/
def Ctl.frozen (c : Ctl) : Bool := c.act != .ready

/-- A controller whose operation completes at tick `now` (R410). -/
def Ctl.due (c : Ctl) (now : Nat) : Bool :=
  match c.act with
  | .busy _ t => decide (t ≤ now)
  | _ => false

/-- A controller whose operation started before tick `now`, so that it may complete (R410: the delay is positive). -/
def Ctl.startedBefore (c : Ctl) (now : Nat) : Bool :=
  match c.act with
  | .ready => false
  | .busy since _ => decide (since < now)
  | .awaiting since => decide (since < now)

/-- ACK, or a RESET that takes effect at once: the interrupt is dropped, no operation starts (R409). -/
def Ctl.acked (c : Ctl) (v status : Word) : Ctl :=
  { c with command := v, status := status, act := .ready, req := IntReq.none }

/-- An operation starts: the interrupt is acknowledged, the controller is busy for a free positive number of
ticks (R408, R410, log 29). -/
def State.startOp (s : State) (c : Ctl) (v : Word) : Ctl × State :=
  ({ c with
      command := v
      status := stBusy
      act := .busy s.now (s.now + 1 + Config.freeNat s.draws)
      req := IntReq.none }, s.drawn 1)

/-- A store of `v` to the COMMAND word of a controller that is not busy (R408, R409); `ready` is its status after
ACK or RESET. Whether RESET is immediate and silent or a timed operation is a free choice (R409, log 31). -/
def State.command (s : State) (c : Ctl) (v ready : Word) : Ctl × State :=
  match cmdCode v with
  | 1 => (c.acked v ready, s)
  | 0 => if Config.freeBit s.draws then (c.acked v ready, s.drawn 1) else (s.drawn 1).startOp c v
  | _ => s.startOp c v

/-- A RESET took effect at once. -/
def Ctl.resetNow (c : Ctl) (v : Word) : Bool := cmdCode v == 0 && !c.frozen

/-- An operation completes with a status and an interrupt on IRT entry `e` (R410). -/
def State.finishOp (s : State) (e : Nat) (c : Ctl) (status : Word) : Ctl × State :=
  let (r, s1) := s.raiseReq e c.req
  ({ c with status := status, act := .ready, req := r }, s1)

/-! ## DMA (R411, R124)

The words of a block transfer, and the bytes of a packet, move one by one between the command and the completion, and
those that are left move at the completion (log 30). -/

/-- How many of the `n` bytes from `a` on lie in RAM before the first that does not. -/
def dmaRoom (cfg : Config) (a : Word) (n : Nat) : Nat :=
  if 0x20000000 ≤ a.toNat then min n (cfg.ramTop - a.toNat) else 0

/-- A transfer of `n` bytes at `a` ends without a DMA Transfer Error: the address is word aligned and all bytes lie in
RAM (R411, D45: every class). -/
def dmaLegal (cfg : Config) (a : Word) (n : Nat) : Bool := a.extractLsb' 0 2 == 0 && dmaRoom cfg a n == n

/-- A transfer of a block at `a` ends without a DMA Transfer Error (R411, D45). -/
def blockDmaLegal (cfg : Config) (a : Word) : Bool := dmaLegal cfg a 4096

/-- The bytes of a block that a transfer can move: all, or the whole words before the first byte outside RAM (R411). -/
def blockRoom (cfg : Config) (a : Word) : Nat := dmaRoom cfg a 4096 / 4 * 4

/-- How many bytes of a block move at the completion, `moved` having moved before: the rest, or before a DMA error a
free number of words (R411, log 30). -/
def State.blockRest (s : State) (a : Word) (moved : Nat) : Nat :=
  if blockDmaLegal s.cfg a then 4096 - moved
  else 4 * (Config.freeNat s.draws % ((blockRoom s.cfg a - moved) / 4 + 1))

/-- How many bytes of a packet of `n` move at the completion, `moved` having moved before: the rest, or before a DMA
error a free number (R411, log 30). -/
def State.packetRest (s : State) (a : Word) (n moved : Nat) : Nat :=
  if dmaLegal s.cfg a n then n - moved else Config.freeNat s.draws % (dmaRoom s.cfg a n - moved + 1)

/-- Copy `k` bytes of a block at `off` of a medium to RAM at `a`, from byte `moved` of both on. -/
def State.moveToRam (s : State) (blocks : Memory) (off : Nat) (a : Word) (moved k : Nat) : State :=
  { s with mem := s.mem.writeBytes (a.toNat + moved) (blocks.readBytes (off + moved) k) }

/-- The medium after `k` bytes of RAM at `a` are copied to its block at `off`, from byte `moved` of both on. -/
def State.moveToMedium (s : State) (blocks : Memory) (off : Nat) (a : Word) (moved k : Nat) : Memory :=
  blocks.writeBytes (off + moved) (s.mem.readBytes (a.toNat + moved) k)

/-- The end of a transfer of a block of a medium to RAM at `a`; `err` is the class's DMA Transfer Error (R422, R432). -/
def State.blockToRam (s : State) (blocks : Memory) (off : Nat) (a : Word) (moved : Nat) (err : Word) : Word × State :=
  let s1 := s.moveToRam blocks off a moved (s.blockRest a moved)
  if blockDmaLegal s.cfg a then (stReady, s1) else (err, s1.drawn 1)

/-- The end of a transfer of RAM at `a` to a block of a medium (R422, R432). -/
def State.ramToBlock (s : State) (blocks : Memory) (off : Nat) (a : Word) (moved : Nat) (err : Word) :
    Word × Memory × State :=
  let b := s.moveToMedium blocks off a moved (s.blockRest a moved)
  if blockDmaLegal s.cfg a then (stReady, b, s) else (err, b, s.drawn 1)

/-- A block transfer under way: to RAM or to the medium, and where the block lies in the medium. -/
structure BlockTransfer where
  toRam : Bool
  off : Nat
  deriving DecidableEq, Repr

/-- The next word of a block transfer moves, if it lies in RAM: the medium, the bytes moved so far, and the machine
(R124, R411). -/
def State.moveWord (s : State) (blocks : Memory) (moved : Nat) (a : Word) (x : BlockTransfer) :
    Memory × Nat × State :=
  if moved + 4 ≤ blockRoom s.cfg a then
    if x.toRam then (blocks, moved + 4, s.moveToRam blocks x.off a moved 4)
    else (s.moveToMedium blocks x.off a moved 4, moved + 4, s)
  else (blocks, moved, s)

/-! ## Disks (R420-R425) -/

/-- DATA1 of a disk: MAXCYL 31:16, MAXHEAD 15:8, MAXSECT 7:0 (R421). -/
def Disk.geometry (d : Disk) : Word :=
  BitVec.ofNat 16 d.cylinders ++ BitVec.ofNat 8 d.heads ++ BitVec.ofNat 8 d.sectors

/-- The ranges of a device's geometry: 1..65535 cylinders, 1..255 heads and 1..255 sectors of a disk, 1..2^24 blocks of
a flash device (R474, C14). -/
def Device.geometryOk : Device → Bool
  | .disk d => decide (1 ≤ d.cylinders ∧ d.cylinders ≤ 65535 ∧ 1 ≤ d.heads ∧ d.heads ≤ 255 ∧
      1 ≤ d.sectors ∧ d.sectors ≤ 255)
  | .flash d => decide (1 ≤ d.blockCount ∧ d.blockCount ≤ 2 ^ 24)
  | .network _ => true
  | .printer _ => true
  | .terminal _ => true

/-- Where a block of the current cylinder lies in the medium. -/
def Disk.offset (d : Disk) (head sect : Nat) : Nat := ((d.curCyl * d.heads + head) * d.sectors + sect) * 4096

/-- The head and sector of a READBLK or WRITEBLK command exist (R422). -/
def Disk.inRange (d : Disk) (head sect : Nat) : Bool := decide (head < d.heads ∧ sect < d.sectors)

/-- The block transfer under way at a disk, if it has a block (R422). -/
def Disk.transfer (d : Disk) : Option BlockTransfer :=
  let head := (d.ctl.command.extractLsb' 16 8).toNat
  let sect := (d.ctl.command.extractLsb' 8 8).toNat
  if d.ctl.frozen && d.inRange head sect then
    match cmdCode d.ctl.command with
    | 3 => some { toRam := true, off := d.offset head sect }
    | 4 => some { toRam := false, off := d.offset head sect }
    | _ => none
  else none

/-- The next word of a disk's transfer moves (R124). -/
def State.moveDisk (s : State) (d : Disk) : Disk × State :=
  match d.transfer with
  | none => (d, s)
  | some x =>
    let (b, k, s1) := s.moveWord d.blocks d.moved d.data0 x
    ({ d with blocks := b, moved := k }, s1)

/-- A disk's operation completes (R422). DESIGN CHOICE (log 49, unsafe): with both bad coordinates and a bad DMA
address the coordinate error is reported, and nothing moves. -/
def State.completeDisk (s : State) (n : Nat) (d : Disk) : Disk × State :=
  let v := d.ctl.command
  let head := (v.extractLsb' 16 8).toNat
  let sect := (v.extractLsb' 8 8).toNat
  let e := irtOfDevice n
  match cmdCode v with
  | 0 =>
    let (c, s1) := s.finishOp e d.ctl stReady
    ({ d with ctl := c, curCyl := 0 }, s1)
  | 2 =>
    let cyl := (v.extractLsb' 8 16).toNat
    if cyl < d.cylinders then
      let (c, s1) := s.finishOp e d.ctl stReady
      ({ d with ctl := c, curCyl := cyl }, s1)
    else
      let (c, s1) := s.finishOp e d.ctl 4
      ({ d with ctl := c }, s1)
  | 3 =>
    if d.inRange head sect then
      let (st, s1) := s.blockToRam d.blocks (d.offset head sect) d.data0 d.moved 7
      let (c, s2) := s1.finishOp e d.ctl st
      ({ d with ctl := c }, s2)
    else
      let (c, s1) := s.finishOp e d.ctl 5
      ({ d with ctl := c }, s1)
  | 4 =>
    if d.inRange head sect then
      let (st, b, s1) := s.ramToBlock d.blocks (d.offset head sect) d.data0 d.moved 7
      let (c, s2) := s1.finishOp e d.ctl st
      ({ d with ctl := c, blocks := b }, s2)
    else
      let (c, s1) := s.finishOp e d.ctl 6
      ({ d with ctl := c }, s1)
  | _ =>
    let (c, s1) := s.finishOp e d.ctl stIllegal
    ({ d with ctl := c }, s1)

/-! ## Flash devices (R430-R433) -/

/-- The block transfer under way at a flash device, if it has a block (R432). -/
def Flash.transfer (d : Flash) : Option BlockTransfer :=
  let block := (d.ctl.command.extractLsb' 8 24).toNat
  if d.ctl.frozen && decide (block < d.blockCount) then
    match cmdCode d.ctl.command with
    | 2 => some { toRam := true, off := block * 4096 }
    | 3 => some { toRam := false, off := block * 4096 }
    | _ => none
  else none

/-- The next word of a flash device's transfer moves (R124). -/
def State.moveFlash (s : State) (d : Flash) : Flash × State :=
  match d.transfer with
  | none => (d, s)
  | some x =>
    let (b, k, s1) := s.moveWord d.blocks d.moved d.data0 x
    ({ d with blocks := b, moved := k }, s1)

/-- A flash device's operation completes (R432). DESIGN CHOICE (log 49, unsafe): with both a bad block number and a bad
DMA address the block number's error is reported, and nothing moves. -/
def State.completeFlash (s : State) (n : Nat) (d : Flash) : Flash × State :=
  let v := d.ctl.command
  let block := (v.extractLsb' 8 24).toNat
  let e := irtOfDevice n
  match cmdCode v with
  | 0 =>
    let (c, s1) := s.finishOp e d.ctl stReady
    ({ d with ctl := c }, s1)
  | 2 =>
    if block < d.blockCount then
      let (st, s1) := s.blockToRam d.blocks (block * 4096) d.data0 d.moved 6
      let (c, s2) := s1.finishOp e d.ctl st
      ({ d with ctl := c }, s2)
    else
      let (c, s1) := s.finishOp e d.ctl 4
      ({ d with ctl := c }, s1)
  | 3 =>
    if block < d.blockCount then
      let (st, b, s1) := s.ramToBlock d.blocks (block * 4096) d.data0 d.moved 6
      let (c, s2) := s1.finishOp e d.ctl st
      ({ d with ctl := c, blocks := b }, s2)
    else
      let (c, s1) := s.finishOp e d.ctl 5
      ({ d with ctl := c }, s1)
  | _ =>
    let (c, s1) := s.finishOp e d.ctl stIllegal
    ({ d with ctl := c }, s1)

/-! ## Network adapters (R435-R439) -/

/-- ND, IE and PQ of the first configuration word: bits 8, 9, 10 (R437). -/
def Network.named (d : Network) : Bool := d.conf0.getLsbD 8
def Network.intEnabled (d : Network) : Bool := d.conf0.getLsbD 9
def Network.promiscuous (d : Network) : Bool := d.conf0.getLsbD 10

/-- The six octets of the MAC address, first to sixth (R437). -/
def Network.mac (d : Network) : List Byte :=
  [laneOf d.conf0 2, laneOf d.conf0 3, laneOf d.conf1 0, laneOf d.conf1 1, laneOf d.conf1 2, laneOf d.conf1 3]

/-- STATUS as read: Read Pending is ORed in with IE = 1 and a packet queued (R436). -/
def Network.statusRead (d : Network) : Word :=
  if d.intEnabled && !d.rxQueue.isEmpty then d.ctl.status ||| 0x80#32 else d.ctl.status

/-- The bits of the first configuration word that are configuration: MAC octets, PQ, IE, ND (R437). -/
def netConfMask : Word := 0xFFFF0700#32

/-- The default configuration of network adapter `dev` (R438: not stated, log 32). -/
def Network.defaulted (d : Network) (dev : Nat) : Network :=
  { d with conf0 := (Config.netDefaults dev).1 &&& netConfMask, conf1 := (Config.netDefaults dev).2 }

/-- A packet as sent: with ND = 1 its source MAC field, octets 6 to 11 of an Ethernet frame, is overwritten
(R437, log 32). -/
def Network.outgoing (d : Network) (p : List Byte) : List Byte :=
  if d.named then p.take 6 ++ d.mac.take (p.length - 6) ++ p.drop 12 else p

/-- The address filter: promiscuous, addressed to the adapter, or broadcast (R437, log 32). -/
def Network.accepts (d : Network) (p : List Byte) : Bool :=
  d.promiscuous || p.take 6 == d.mac || p.take 6 == List.replicate 6 (0xFF : Byte)

/-- A network adapter moves bytes between its command and its completion: a READNET with a packet, or a WRITENET that
will send one (R438). -/
def Network.transfers (d : Network) : Bool :=
  d.ctl.frozen && (cmdCode d.ctl.command == 3 && !d.rxQueue.isEmpty || cmdCode d.ctl.command == 4)

/-- The next byte of a network adapter's transfer moves, if it lies in RAM (R124, R411, R438). -/
def State.moveNetwork (s : State) (d : Network) : Network × State :=
  if d.transfers then
    match cmdCode d.ctl.command with
    | 3 =>
      let p := d.rxQueue.headD []
      if d.moved < dmaRoom s.cfg d.data0 p.length then
        ({ d with moved := d.moved + 1 },
          { s with mem := s.mem.writeBytes (d.data0.toNat + d.moved) ((p.drop d.moved).take 1) })
      else (d, s)
    | _ =>
      if dmaLegal s.cfg d.data0 d.data1.toNat && decide (d.collected.length < d.data1.toNat) then
        ({ d with collected := d.collected ++ [s.mem.read (d.data0.toNat + d.collected.length)] }, s)
      else (d, s)
  else (d, s)

/-- A network adapter's operation completes (R438). DESIGN CHOICE (log 32): a READNET that ends with DMA Transfer Error
leaves DATA1 as it was (unsafe), and its packet queued or not (free). -/
def State.completeNetwork (s : State) (n : Nat) (d : Network) : Network × State :=
  let v := d.ctl.command
  let e := irtOfDevice n
  match cmdCode v with
  | 0 =>
    let (c, s1) := s.finishOp e d.ctl stReady
    ({ d.defaulted (n - 16) with ctl := c }, s1)
  | 2 =>
    let (c, s1) := s.finishOp e d.ctl stReady
    ({ d with
        ctl := c
        data0 := d.conf0 ||| (if Config.freeBit s.draws then 0x8000#32 else 0)
        data1 := d.conf1 }, s1.drawn 1)
  | 3 =>
    match d.rxQueue with
    | [] =>
      let (c, s1) := s.finishOp e d.ctl stReady
      ({ d with ctl := c, data1 := 0 }, s1)
    | p :: rest =>
      let s1 := { s with
        mem := s.mem.writeBytes (d.data0.toNat + d.moved)
          ((p.drop d.moved).take (s.packetRest d.data0 p.length d.moved)) }
      if dmaLegal s.cfg d.data0 p.length then
        let (c, s2) := s1.finishOp e d.ctl stReady
        ({ d with ctl := c, data1 := BitVec.ofNat 32 p.length, rxQueue := rest }, s2)
      else
        let (c, s2) := (s1.drawn 2).finishOp e d.ctl 7
        ({ d with ctl := c, rxQueue := if Config.freeBit (s.draws + 1) then rest else p :: rest }, s2)
  | 4 =>
    if dmaLegal s.cfg d.data0 d.data1.toNat then
      let (c, s1) := s.finishOp e d.ctl stReady
      let p := d.collected ++
        s.mem.readBytes (d.data0.toNat + d.collected.length) (d.data1.toNat - d.collected.length)
      ({ d with ctl := c, sent := d.sent ++ [d.outgoing p] }, s1)
    else
      let (c, s1) := s.finishOp e d.ctl 7
      ({ d with ctl := c }, s1)
  | 5 =>
    let (c, s1) := s.finishOp e d.ctl stReady
    let flags := mergeBits 0x700#32 d.conf0 d.data0
    if d.data0.getLsbD 15 then
      ({ d with ctl := c, conf0 := mergeBits 0xFFFF0000#32 flags d.data0, conf1 := d.data1 }, s1)
    else ({ d with ctl := c, conf0 := flags }, s1)
  | _ =>
    let (c, s1) := s.finishOp e d.ctl stIllegal
    ({ d with ctl := c }, s1)

/-! ## Printers (R445, R446) -/

/-- A printer's operation completes (R446). -/
def State.completePrinter (s : State) (n : Nat) (d : Printer) : Printer × State :=
  let e := irtOfDevice n
  match cmdCode d.ctl.command with
  | 0 =>
    let (c, s1) := s.finishOp e d.ctl stReady
    ({ d with ctl := c }, s1)
  | 2 =>
    let (c, s1) := s.finishOp e d.ctl stReady
    ({ d with ctl := c, log := d.log ++ [laneOf d.data0 0] }, s1)
  | _ =>
    let (c, s1) := s.finishOp e d.ctl stIllegal
    ({ d with ctl := c }, s1)

/-! ## Terminals (R450-R454) -/

/-- A terminal status word: character in bits 15:8, code in bits 7:0 (R451). -/
def termStatus (ch : Byte) (code : Byte) : Word := (0 : Half) ++ ch ++ code

/-- The status of a terminal sub-device after ACK or RESET: code 1, the character free (R451, log 33). -/
def State.termReady (s : State) : Word := termStatus (laneOf (Config.freeWord s.draws) 0) 1

/-- RECEIVECHAR starts: the receiver waits for the host, unless the host has a typed character (R454). -/
def State.startReceive (s : State) (t : Terminal) (v : Word) : Ctl × State :=
  if t.typed.isEmpty then
    ({ t.recv with command := v, status := stBusy, act := .awaiting s.now, req := IntReq.none }, s)
  else s.startOp t.recv v

/-- The receiver's operation completes (R454). -/
def State.completeRecv (s : State) (n : Nat) (t : Terminal) : Terminal × State :=
  let e := irtOfDevice n
  match cmdCode t.recv.command with
  | 0 =>
    let (c, s1) := (s.drawn 1).finishOp e t.recv s.termReady
    ({ t with recv := c }, s1)
  | 2 =>
    match t.typed with
    | [] => ({ t with recv := { t.recv with act := .awaiting s.now } }, s)
    | ch :: rest =>
      let (c, s1) := s.finishOp e t.recv (termStatus ch 5)
      ({ t with recv := c, typed := rest }, s1)
  | _ =>
    let (c, s1) := s.finishOp e t.recv stIllegal
    ({ t with recv := c }, s1)

/-- The transmitter's operation completes (R453). -/
def State.completeTransm (s : State) (n : Nat) (t : Terminal) : Terminal × State :=
  let e := irtOfDevice n
  match cmdCode t.transm.command with
  | 0 =>
    let (c, s1) := (s.drawn 1).finishOp e t.transm s.termReady
    ({ t with transm := c }, s1)
  | 2 =>
    let ch := laneOf t.transm.command 1
    let (c, s1) := s.finishOp e t.transm (termStatus ch 5)
    ({ t with transm := c, output := t.output ++ [ch] }, s1)
  | _ =>
    let (c, s1) := s.finishOp e t.transm stIllegal
    ({ t with transm := c }, s1)

/-- A terminal at a tick: either sub-device may complete (R450). -/
def State.completeTerminal (s : State) (n : Nat) (t : Terminal) : Terminal × State :=
  let (t1, s1) := if t.recv.due s.now then s.completeRecv n t else (t, s)
  if t1.transm.due s1.now then s1.completeTransm n t1 else (t1, s1)

/-! ## Completion -/

/-- The completion event of device `n`, if it is due at this tick (R410, R480). -/
def State.completeDevice (s : State) (n : Nat) : State :=
  match s.device n with
  | none => s
  | some (.disk d) => if d.ctl.due s.now then let (d1, s1) := s.completeDisk n d; s1.setDevice n (.disk d1) else s
  | some (.flash d) => if d.ctl.due s.now then let (d1, s1) := s.completeFlash n d; s1.setDevice n (.flash d1) else s
  | some (.network d) =>
    if d.ctl.due s.now then let (d1, s1) := s.completeNetwork n d; s1.setDevice n (.network d1) else s
  | some (.printer d) =>
    if d.ctl.due s.now then let (d1, s1) := s.completePrinter n d; s1.setDevice n (.printer d1) else s
  | some (.terminal d) => let (d1, s1) := s.completeTerminal n d; s1.setDevice n (.terminal d1)

/-! ## Transfers under way (R124) -/

/-- A transfer is under way at a device, so that words or bytes may move before its completion. -/
def Device.transfers : Device → Bool
  | .disk d => d.transfer.isSome
  | .flash d => d.transfer.isSome
  | .network d => d.transfers
  | .printer _ => false
  | .terminal _ => false

/-- The next word or byte of the transfer under way at device `n` moves, if there is one (R124). -/
def State.moveUnit (s : State) (n : Nat) : State :=
  match s.device n with
  | some (.disk d) => let (d1, s1) := s.moveDisk d; s1.setDevice n (.disk d1)
  | some (.flash d) => let (d1, s1) := s.moveFlash d; s1.setDevice n (.flash d1)
  | some (.network d) => let (d1, s1) := s.moveNetwork d; s1.setDevice n (.network d1)
  | some (.printer _) => s
  | some (.terminal _) => s
  | none => s

/-- `k` times, a word or a byte of a freely chosen device's transfer moves. -/
def State.moveUnits (s : State) : Nat → State
  | 0 => s
  | k + 1 => ((s.drawn 1).moveUnit (Config.freeNat s.draws % 40)).moveUnits k

/-- Between two turns any words and bytes of the transfers under way move, in any interleaving of the devices (R124,
R411, log 30). -/
def State.dmaGap (s : State) : State :=
  if s.devices.any fun p => p.2.transfers then (s.drawn 1).moveUnits (Config.freeNat s.draws) else s

/-! ## Device registers -/

/-- What word `k` (0..3) of an installed device's register reads (R401, R412). -/
def Device.readWord : Device → Nat → Word
  | .disk d, 0 => d.ctl.status
  | .disk d, 1 => d.ctl.command
  | .disk d, 2 => d.data0
  | .disk d, _ => d.geometry
  | .flash d, 0 => d.ctl.status
  | .flash d, 1 => d.ctl.command
  | .flash d, 2 => d.data0
  | .flash d, _ => BitVec.ofNat 32 (d.blockCount % 2 ^ 24)
  | .network d, 0 => d.statusRead
  | .network d, 1 => d.ctl.command
  | .network d, 2 => d.data0
  | .network d, _ => d.data1
  | .printer d, 0 => d.ctl.status
  | .printer d, 1 => d.ctl.command
  | .printer d, 2 => d.data0
  | .printer _, _ => 0
  | .terminal d, 0 => d.recv.status
  | .terminal d, 1 => d.recv.command
  | .terminal d, 2 => d.transm.status
  | .terminal d, _ => d.transm.command

/-- A load of word `k` of device register `n`; an uninstalled device reads 0 (R405). -/
def State.readDevice (s : State) (n k : Nat) : Word :=
  match s.device n with
  | none => 0
  | some d => d.readWord k

/-- A COMMAND word with a set bit that its class does not define is refused (R408, D50, log 22). -/
def refuseUpper (undefinedBits v : Word) (effect : Res State) : Res State :=
  if v &&& undefinedBits = 0 then effect else .refuse .commandUpperBits

/-- A store to a disk's COMMAND (R408, R409, R422). -/
def State.commandDisk (s : State) (n : Nat) (d : Disk) (v : Word) : State :=
  let (c, s1) := s.command d.ctl v stReady
  s1.setDevice n (.disk { d with ctl := c, curCyl := if c.resetNow v then 0 else d.curCyl, moved := 0 })

/-- A store to a disk's register (R407, R408, R422, R425). -/
def State.writeDisk (s : State) (n : Nat) (d : Disk) (k : Nat) (v : Word) : Res State :=
  if d.ctl.frozen then .ok s
  else match k with
  | 1 => refuseUpper 0xFF000000#32 v (.ok (s.commandDisk n d v))
  | 2 => .ok (s.setDevice n (.disk { d with data0 := v }))
  | _ => .ok s

/-- A store to a flash device's COMMAND (R408, R409, R432). -/
def State.commandFlash (s : State) (n : Nat) (d : Flash) (v : Word) : State :=
  let (c, s1) := s.command d.ctl v stReady
  s1.setDevice n (.flash { d with ctl := c, moved := 0 })

/-- A store to a flash device's register (R407, R408, R432). -/
def State.writeFlash (s : State) (n : Nat) (d : Flash) (k : Nat) (v : Word) : Res State :=
  if d.ctl.frozen then .ok s
  else match k with
  | 1 => .ok (s.commandFlash n d v)
  | 2 => .ok (s.setDevice n (.flash { d with data0 := v }))
  | _ => .ok s

/-- A store to a network adapter's COMMAND: as for every device, but whether an ACK given while packets are still
queued with IE = 1 leaves the interrupt asserted is a free choice (R439, log 32). DESIGN CHOICE (log 28, unsafe): an
interrupt left asserted so stays with the processor that dynamic routing gave it to, where R390 keeps that one "until
acknowledged". -/
def State.commandNetwork (s : State) (n : Nat) (d : Network) (v : Word) : State :=
  if cmdCode v = 1 ∧ d.ctl.req.pending = true ∧ d.intEnabled = true ∧ d.rxQueue ≠ [] ∧
      Config.freeBit s.draws = true then
    (s.drawn 1).setDevice n (.network { d with ctl := { d.ctl with command := v, status := stReady } })
  else
    let (c, s1) := (s.drawn 1).command d.ctl v stReady
    let d1 := if c.resetNow v then d.defaulted (n - 16) else d
    s1.setDevice n (.network { d1 with ctl := c, moved := 0, collected := [] })

/-- A store to a network adapter's register (R407, R408, R438). -/
def State.writeNetwork (s : State) (n : Nat) (d : Network) (k : Nat) (v : Word) : Res State :=
  if d.ctl.frozen then .ok s
  else match k with
  | 1 => refuseUpper 0xFFFFFF00#32 v (.ok (s.commandNetwork n d v))
  | 2 => .ok (s.setDevice n (.network { d with data0 := v }))
  | 3 => .ok (s.setDevice n (.network { d with data1 := v }))
  | _ => .ok s

/-- A store to a printer's COMMAND (R408, R409, R446). -/
def State.commandPrinter (s : State) (n : Nat) (d : Printer) (v : Word) : State :=
  let (c, s1) := s.command d.ctl v stReady
  s1.setDevice n (.printer { d with ctl := c })

/-- A store to a printer's register (R407, R408, R445). -/
def State.writePrinter (s : State) (n : Nat) (d : Printer) (k : Nat) (v : Word) : Res State :=
  if d.ctl.frozen then .ok s
  else match k with
  | 1 => refuseUpper 0xFFFFFF00#32 v (.ok (s.commandPrinter n d v))
  | 2 => .ok (s.setDevice n (.printer { d with data0 := v }))
  | _ => .ok s

/-- A store to a terminal's RECV_COMMAND (R408, R409, R452, R454). -/
def State.commandRecv (s : State) (n : Nat) (d : Terminal) (v : Word) : State :=
  let (c, s1) := if cmdCode v = 2 then s.startReceive d v else (s.drawn 1).command d.recv v s.termReady
  s1.setDevice n (.terminal { d with recv := c })

/-- A store to a terminal's TRANSM_COMMAND (R408, R409, R452, R453). -/
def State.commandTransm (s : State) (n : Nat) (d : Terminal) (v : Word) : State :=
  let (c, s1) := (s.drawn 1).command d.transm v s.termReady
  s1.setDevice n (.terminal { d with transm := c })

/-- A store to a terminal's register: the two sub-devices freeze independently (R407, R450, R452). -/
def State.writeTerminal (s : State) (n : Nat) (d : Terminal) (k : Nat) (v : Word) : Res State :=
  match k with
  | 1 =>
    if d.recv.frozen then .ok s else refuseUpper 0xFFFFFF00#32 v (.ok (s.commandRecv n d v))
  | 3 =>
    if d.transm.frozen then .ok s else refuseUpper 0xFFFF0000#32 v (.ok (s.commandTransm n d v))
  | _ => .ok s

/-- A store to word `k` of device register `n`; stores to an uninstalled device have no effect (R405). -/
def State.writeDevice (s : State) (n k : Nat) (v : Word) : Res State :=
  match s.device n with
  | none => .ok s
  | some (.disk d) => s.writeDisk n d k v
  | some (.flash d) => s.writeFlash n d k v
  | some (.network d) => s.writeNetwork n d k v
  | some (.printer d) => s.writePrinter n d k v
  | some (.terminal d) => s.writeTerminal n d k v

/-! ## The bit maps -/

/-- Word `j` of the Installed Devices Bit Map (R402). -/
def State.installedMap (s : State) (j : Nat) : Word :=
  (bits8 fun i => (s.device (8 * j + i)).isSome).setWidth 32

/-- Device `n` shows in the Interrupting Devices Bit Map that the current processor reads: any pending request,
or only one it sees itself, by `IDBM_VIEW` (R403, D31). -/
def State.shownPending (s : State) (n : Nat) : Bool :=
  match s.device n with
  | none => false
  | some d => d.reqs.any fun r =>
      match s.cfg.idbmView with
      | .global => r.pending
      | .perCpu => s.delivered (irtOfDevice n) r s.cpu.prid

/-- Word `j` of the Interrupting Devices Bit Map (R403). -/
def State.interruptingMap (s : State) (j : Nat) : Word :=
  (bits8 fun i => s.shownPending (8 * j + i)).setWidth 32

/-! ## What the host does to a device -/

/-- A character is typed at terminal `dev` (R454). It ends a RECEIVECHAR that waits for one; in the tick of the command
itself it is delivered in a later tick (R410). Any other character the host buffers or drops, a free choice: one typed
while no RECEIVECHAR is outstanding (R454) and, DESIGN CHOICE (log 33), one typed while a RECEIVECHAR is busy delivering
a character that was buffered. -/
def State.typeChar (s : State) (dev : Nat) (ch : Byte) : State :=
  let n := 32 + dev
  match s.device n with
  | some (.terminal t) =>
    match t.recv.act with
    | .awaiting since =>
      if since < s.now then
        let (c, s1) := s.finishOp (irtOfDevice n) t.recv (termStatus ch 5)
        s1.setDevice n (.terminal { t with recv := c })
      else
        (s.drawn 1).setDevice n (.terminal { t with
          recv := { t.recv with act := .busy since (s.now + 1 + Config.freeNat s.draws) }
          typed := t.typed ++ [ch] })
    | _ =>
      if Config.freeBit s.draws then (s.drawn 1).setDevice n (.terminal { t with typed := t.typed ++ [ch] })
      else s.drawn 1
  | _ => s

/-- The error codes with which a disk's operation can fail (R422, R424). -/
def diskFailures : Nat → List Nat
  | 2 => [4]
  | 3 => [5, 7]
  | 4 => [6, 7]
  | _ => []

/-- The error codes with which a flash device's operation can fail (R432, R433). -/
def flashFailures : Nat → List Nat
  | 2 => [4, 6]
  | 3 => [5, 6]
  | _ => []

/-- The error codes with which a network adapter's operation can fail (R436, R438). -/
def networkFailures : Nat → List Nat
  | 3 => [5, 7]
  | 4 => [6, 7]
  | _ => []

/-- The error code with which a character's printing, transmission or reception can fail (R446, R451). -/
def characterFailures : Nat → List Nat
  | 2 => [4]
  | _ => []

/-- A controller is executing a command of an earlier tick (R410) that can fail with a code. -/
def Ctl.mayFail (c : Ctl) (now : Nat) (failures : Nat → List Nat) (code : Nat) : Bool :=
  c.startedBefore now && (failures (cmdCode c.command)).contains code

/-- The hardware of device `n` fails during an operation (R410, log 34): the operation completes now with an error code
of its command and an interrupt. What its transfer has moved before stays moved, nothing more moves. DESIGN CHOICE
(log 32, log 34, unsafe): DATA1 of a network adapter whose READNET fails so, with Read Error or DMA Transfer Error, is
left as it was, and its packet stays queued. -/
def State.failDevice (s : State) (n : Nat) (transm : Bool) (code : Nat) : State :=
  let e := irtOfDevice n
  let st := BitVec.ofNat 32 code
  match s.device n with
  | some (.disk d) =>
    if d.ctl.mayFail s.now diskFailures code then
      let (c, s1) := s.finishOp e d.ctl st
      s1.setDevice n (.disk { d with ctl := c })
    else s
  | some (.flash d) =>
    if d.ctl.mayFail s.now flashFailures code then
      let (c, s1) := s.finishOp e d.ctl st
      s1.setDevice n (.flash { d with ctl := c })
    else s
  | some (.network d) =>
    if d.ctl.mayFail s.now networkFailures code then
      let (c, s1) := s.finishOp e d.ctl st
      s1.setDevice n (.network { d with ctl := c })
    else s
  | some (.printer d) =>
    if d.ctl.mayFail s.now characterFailures code then
      let (c, s1) := s.finishOp e d.ctl st
      s1.setDevice n (.printer { d with ctl := c })
    else s
  | some (.terminal t) =>
    let ch := laneOf (Config.freeWord s.draws) 0
    if transm then
      if t.transm.mayFail s.now characterFailures code then
        let (c, s1) := (s.drawn 1).finishOp e t.transm (termStatus ch 4)
        s1.setDevice n (.terminal { t with transm := c })
      else s
    else if t.recv.mayFail s.now characterFailures code then
      let (c, s1) := (s.drawn 1).finishOp e t.recv (termStatus ch 4)
      s1.setDevice n (.terminal { t with recv := c })
    else s
  | none => s

/-- A packet arrives at network adapter `dev`: the filter, the queue's capacity, and with IE = 1 an interrupt,
unless the adapter is busy and its completion raises one anyway (R439, log 32). -/
def State.arrivePacket (s : State) (dev : Nat) (p : List Byte) : State :=
  let n := 16 + dev
  match s.device n with
  | some (.network d) =>
    if d.accepts p && decide (d.rxQueue.length < Config.netCapacity dev) then
      let d1 := { d with rxQueue := d.rxQueue ++ [p] }
      if d.intEnabled && !d.ctl.frozen then
        let (r, s1) := s.raiseReq (irtOfDevice n) d.ctl.req
        s1.setDevice n (.network { d1 with ctl := { d.ctl with req := r } })
      else s.setDevice n (.network d1)
    else s
  | _ => s

end Sys2Proof.Machine
end

