-- ==== Sys2Proof/Machine/Registers.lean ====
section
/-! DEFINITION. The physical address map (spec/20_memory.md R85) and the memory-mapped registers: the Bus
Register Area (spec/60_exceptions.md R374), the bit maps and device registers (spec/61_devices.md R401-R403),
the Interrupt Routing Table (R388), the Processor Interface (R392-R396) and the Machine Control registers
(R381-R386). -/

namespace Sys2Proof.Machine

/-! ## The map -/

/-- A memory-mapped register. -/
inductive MmReg where
  | ramBase | ramSize | execBase | execSize | bootBase | bootSize | todHi | todLo | intervalTimer | timeScale
  | tlbFloor
  | installed (j : Nat)
  | interrupting (j : Nat)
  | device (n k : Nat)
  | irt (e : Nat)
  | inbox | outbox | tpr | biosReserved1 | biosReserved2
  | ncpus | resetCpu | bootPc | bootSp | haltCpu | power
  deriving DecidableEq, Repr

/-- What lies at a physical address (R85). -/
inductive Region where
  | ram | biosData | rom
  | register (r : MmReg)
  | undefined
  deriving DecidableEq, Repr

/-- The Bus Register Area, by word (R374). -/
def busRegister : Nat → Option MmReg
  | 0 => some .ramBase
  | 1 => some .ramSize
  | 2 => some .execBase
  | 3 => some .execSize
  | 4 => some .bootBase
  | 5 => some .bootSize
  | 6 => some .todHi
  | 7 => some .todLo
  | 8 => some .intervalTimer
  | 9 => some .timeScale
  | 10 => some .tlbFloor
  | _ => none

/-- The Processor Interface, by word (R392). -/
def interfaceRegister : Nat → Option MmReg
  | 0 => some .inbox
  | 1 => some .outbox
  | 2 => some .tpr
  | 3 => some .biosReserved1
  | 4 => some .biosReserved2
  | _ => none

/-- The Machine Control registers, by word (R381). -/
def controlRegister : Nat → Option MmReg
  | 0 => some .ncpus
  | 1 => some .resetCpu
  | 2 => some .bootPc
  | 3 => some .bootSp
  | 4 => some .haltCpu
  | 5 => some .power
  | _ => none

/-- The register whose word contains a physical address (R85). -/
def registerAt (cfg : Config) (pa : Nat) : Option MmReg :=
  if pa < 0x10000000 then none
  else if pa < 0x1000002C then busRegister ((pa - 0x10000000) / 4)
  else if pa < 0x10000040 then some (.installed ((pa - 0x1000002C) / 4))
  else if pa < 0x10000054 then some (.interrupting ((pa - 0x10000040) / 4))
  else if pa < 0x100002D4 then some (.device ((pa - 0x10000054) / 16) ((pa - 0x10000054) % 16 / 4))
  else if cfg.irtBase ≤ pa ∧ pa < cfg.irtBase + 0xC0 then some (.irt ((pa - cfg.irtBase) / 4))
  else if 0x10000400 ≤ pa ∧ pa < 0x10000414 then interfaceRegister ((pa - 0x10000400) / 4)
  else if 0x10000500 ≤ pa ∧ pa < 0x10000518 then controlRegister ((pa - 0x10000500) / 4)
  else none

/-- The region of a physical address (R85, R92). -/
def regionOf (cfg : Config) (pa : Nat) : Region :=
  if pa < cfg.execSize ∧ pa < 0x0FFFF000 then .rom
  else if 0x0FFFF000 ≤ pa ∧ pa < 0x10000000 then .biosData
  else if 0x1FC00000 ≤ pa ∧ pa < 0x1FC00000 + cfg.bootSize ∧ pa < 0x20000000 then .rom
  else if 0x20000000 ≤ pa ∧ pa < cfg.ramTop then .ram
  else
    match registerAt cfg pa with
    | some r => .register r
    | none => .undefined

/-! ## Loads -/

/-- The value of the TLB Floor Address register (R374, D12). -/
def floorValue (cfg : Config) : Word :=
  match cfg.tlbFloor with
  | .vmOff => cfg.vmOffValue
  | .kuseg => 0x80000000#32
  | .kseg2 => 0x40000000#32
  | .ramTop => BitVec.ofNat 32 cfg.ramTop

/-- The bits of an IRT entry that are described: RP 28, Destination 15:0 (R388). -/
def irtDescribed : Word := 0x1000FFFF#32

/-- A load of an IRT entry: an undescribed bit that was written 1 reads 1 or 0, a free choice (R388, log 26). -/
def State.readIrt (s : State) (e : Nat) : Word × State :=
  let w := s.irtEntry e
  if w &&& ~~~irtDescribed = 0 then (w, s)
  else ((w &&& irtDescribed) ||| (w &&& ~~~irtDescribed &&& Config.freeWord s.draws), s.drawn 1)

/-- An unspecified value is read (R94, R394, log 41). -/
def State.readFree (s : State) : Word × State := (Config.freeWord s.draws, s.drawn 1)

/-- A load of the Inbox: the oldest pending IPI, origin in bits 11:8 and message in bits 7:0; unspecified when
there is none (R394). -/
def State.readInbox (s : State) : Word × State :=
  match s.cpu.ipiQueue with
  | [] => s.readFree
  | i :: _ => ((i.origin.setWidth 32 <<< 8) ||| i.message.setWidth 32, s)

/-- The value an aligned word load of a register reads. Loads have no side effect (R105); the state returned
differs only in the number of free values drawn. -/
def State.readRegister (s : State) : MmReg → Word × State
  | .ramBase => (0x20000000#32, s)
  | .ramSize => (BitVec.ofNat 32 s.cfg.ramSize, s)
  | .execBase => (0#32, s)
  | .execSize => (BitVec.ofNat 32 s.cfg.execSize, s)
  | .bootBase => (0x1FC00000#32, s)
  | .bootSize => (BitVec.ofNat 32 s.cfg.bootSize, s)
  | .todHi => (s.tod.extractLsb' 32 32, s)
  | .todLo => (s.tod.extractLsb' 0 32, s)
  | .intervalTimer => (s.intervalTimer, s)
  | .timeScale => (BitVec.ofNat 32 s.cfg.timeScale, s)
  | .tlbFloor => (floorValue s.cfg, s)
  | .installed j => (s.installedMap j, s)
  | .interrupting j => (s.interruptingMap j, s)
  | .device n k => (s.readDevice n k, s)
  | .irt e => s.readIrt e
  | .inbox => s.readInbox
  | .outbox => s.readFree
  | .tpr => (s.cpu.tpr.setWidth 32, s)
  | .biosReserved1 => (s.cpu.biosReserved1, s)
  | .biosReserved2 => (s.cpu.biosReserved2, s)
  | .ncpus => (BitVec.ofNat 32 s.cfg.ncpu, s)
  | .resetCpu => s.readFree
  | .bootPc => (s.bootPc, s)
  | .bootSp => (s.bootSp, s)
  | .haltCpu => s.readFree
  | .power => s.readFree

/-! ## Stores -/

/-- A store to the Interval Timer: a new count, and its interrupt is acknowledged (R371). -/
def State.writeIntervalTimer (s : State) (v : Word) : State :=
  { s with intervalTimer := v, itReq := IntReq.none }

/-- An IPI arrives at a processor unless one from the same origin is already pending (R393). -/
def Cpu.receiveIpi (c : Cpu) (origin : CpuId) (message : Byte) : Cpu :=
  if c.ipiQueue.any fun i => i.origin == origin then c
  else { c with ipiQueue := c.ipiQueue ++ [{ origin := origin, message := message }], signalled := true }

/-- A store to the Outbox: the message goes to every existing processor whose recipient bit, 8 + its number, is
set (R393). -/
def State.writeOutbox (s : State) (v : Word) : State :=
  s.mapCpus fun c =>
    if v.getLsbD (8 + c.prid.toNat) && decide (c.prid.toNat < s.cfg.ncpu) then
      c.receiveIpi s.cpu.prid (laneOf v 0)
    else c

/-- A store to the Inbox: the oldest pending IPI is acknowledged (R394). -/
def State.writeInbox (s : State) : State :=
  { s with cpu := { s.cpu with ipiQueue := s.cpu.ipiQueue.tail } }

/-- Free TLB contents (R66, log 7): slot `i` from the free values `n + 2 i` and `n + 2 i + 1`. -/
def freeTlb (n : Nat) : Vector TlbEntry 64 :=
  Vector.ofFn fun i => {
    hi := Config.freeWord (n + 2 * i.val) &&& entryHiMask
    lo := Config.freeWord (n + 2 * i.val + 1) &&& entryLoMask }

/-- A processor after a reset by ResetCPU (R66): it starts at BootPC with SP from BootSP; what R66 leaves `any`
(TLB, TPR, BIOSReserved1/2) is free (log 7), and its IPI queue is emptied (D35). -/
def State.restarted (s : State) (c : Cpu) : Cpu :=
  { (({ Cpu.atReset s.cfg 0 .running with prid := c.prid }).setReg 29 s.bootSp) with
    pc := s.bootPc
    npc := s.bootPc + 4
    tlb := freeTlb s.draws
    tpr := (Config.freeWord (s.draws + 128)).extractLsb' 0 4
    biosReserved1 := Config.freeWord (s.draws + 129)
    biosReserved2 := Config.freeWord (s.draws + 130) }

/-- The processor a value written to ResetCPU or HaltCPU names (R382, R383, D39). DESIGN CHOICE (log 48, unsafe): the
whole word is compared, so that a value whose low four bits name a processor and whose other bits are not 0 is ignored
like every other value at or above NCPU. -/
def Cpu.namedBy (cfg : Config) (v : Word) (c : Cpu) : Bool :=
  decide (v.toNat < cfg.ncpu) && c.prid.toNat == v.toNat

/-- A store to ResetCPU: the named processor is reset and Running from the next tick, so that one that has yet to
take its turn in this tick does not take it (R382, R480, log 24). -/
def State.writeResetCpu (s : State) (v : Word) : State :=
  let f := fun c : Cpu => if c.namedBy s.cfg v then s.restarted c else c
  { s with
    cpu := f s.cpu
    todo := s.todo.filter fun c => !c.namedBy s.cfg v
    done := s.done.map f ++ (s.todo.filter fun c => c.namedBy s.cfg v).map s.restarted
    draws := s.draws + 131 }

/-- A store to HaltCPU: the named processor is Halted at once (R383). -/
def State.writeHaltCpu (s : State) (v : Word) : State :=
  s.mapCpus fun c => if c.namedBy s.cfg v then { c with power := .halted } else c

/-- A store to Power: exactly 0xFF starts the power-off, which completes after a free positive number of ticks; one
already under way is not restarted (R384, log 35). -/
def State.writePower (s : State) (v : Word) : State :=
  if v = 0xFF#32 ∧ s.powerOffAt = none then
    { s with powerOffAt := some (s.now + 1 + Config.freeNat s.draws), draws := s.draws + 1 }
  else s

/-- An aligned word store to a register. Stores to read-only registers are accepted and change nothing (R94). -/
def State.writeRegister (s : State) (v : Word) : MmReg → Res State
  | .ramBase | .ramSize | .execBase | .execSize | .bootBase | .bootSize => .ok s
  | .todHi | .todLo | .timeScale | .tlbFloor => .ok s
  | .intervalTimer => .ok (s.writeIntervalTimer v)
  | .installed _ | .interrupting _ => .ok s
  | .device n k => s.writeDevice n k v
  | .irt e => .ok (s.writeIrt e v)
  | .inbox => .ok s.writeInbox
  | .outbox => .ok (s.writeOutbox v)
  | .tpr => .ok { s with cpu := { s.cpu with tpr := v.extractLsb' 0 4 } }
  | .biosReserved1 => .ok { s with cpu := { s.cpu with biosReserved1 := v } }
  | .biosReserved2 => .ok { s with cpu := { s.cpu with biosReserved2 := v } }
  | .ncpus => .ok s
  | .resetCpu => .ok (s.writeResetCpu v)
  | .bootPc => .ok { s with bootPc := v }
  | .bootSp => .ok { s with bootSp := v }
  | .haltCpu => .ok (s.writeHaltCpu v)
  | .power => .ok (s.writePower v)

end Sys2Proof.Machine
end

