-- ==== Sys2Proof/Machine/Access.lean ====
section
/-! DEFINITION. The memory accesses of instructions: `MemRead`, `MemWrite` and `Fetch` (spec/20_memory.md R96), the
unaligned word accesses of LWL, LWR, SWL and SWR (spec/42_loadstore.md R228, R229, R235, R236) and the access of CAS
(spec/45_cas.md R290-R293). -/

namespace Sys2Proof.Machine

/-! ## Results -/

/-- Apply a function to the value of a result. -/
def Res.map {α β : Type} (f : α → β) : Res α → Res β
  | .ok a => .ok (f a)
  | .exc e => .exc e
  | .refuse r => .refuse r

/-- The outcome of an instruction executed in `s`: the state it computed, or the entry of the exception it raised,
which takes effect in `s` itself (R345), or a refusal. -/
def State.finish (s : State) : Res State → Out
  | .ok t => .next t
  | .exc e => .next (s.enter e)
  | .refuse r => .refused r

/-! ## Loads -/

/-- The bytes of a memory access of some width at a physical address, zero-extended to a word (R100, R104). -/
def Memory.readWidth (big : Bool) (m : Memory) : Width → Nat → Word
  | .byte, a => (m.read a).setWidth 32
  | .half, a => (m.readHalf big a).setWidth 32
  | .word, a => m.readWord big a

/-- `PhysRead` for a load (R96): memory, a register (words only, R95), or a bus error (R92). -/
def State.physLoad (s : State) (w : Width) (va : Word) (pa : Nat) : Res (Word × State) :=
  match regionOf s.cfg pa with
  | .ram => .ok (s.mem.readWidth s.cfg.bigEndian w pa, s)
  | .biosData => .ok (s.mem.readWidth s.cfg.bigEndian w pa, s)
  | .rom => .ok (s.mem.readWidth s.cfg.bigEndian w pa, s)
  | .register r => if w = .word then .ok (s.readRegister r) else .refuse .narrowRegisterAccess
  | .undefined => .exc (.busError .load va)

/-- `MemRead` (R96): the zero-extended value. -/
def State.memLoad (s : State) (w : Width) (ea : Word) : Res (Word × State) :=
  match translateAddr s.cfg s.cpu .load w ea with
  | .error e => .exc e
  | .ok pa => s.physLoad w ea pa.toNat

/-- The aligned word at a physical address, for LWL and LWR: never a register (R95). -/
def State.physLoadAround (s : State) (va : Word) (pa : Nat) : Res Word :=
  match regionOf s.cfg pa with
  | .ram => .ok (s.mem.readWord s.cfg.bigEndian pa)
  | .biosData => .ok (s.mem.readWord s.cfg.bigEndian pa)
  | .rom => .ok (s.mem.readWord s.cfg.bigEndian pa)
  | .register _ => .refuse .narrowRegisterAccess
  | .undefined => .exc (.busError .load va)

/-- The aligned word that contains the byte at `ea`, translated by `ea` itself and with no alignment check (R102,
R228). -/
def State.memLoadAround (s : State) (ea : Word) : Res Word :=
  match translateAddr s.cfg s.cpu .load .byte ea with
  | .error e => .exc e
  | .ok pa => s.physLoadAround ea (alignedAddr pa.toNat)

/-! ## Stores -/

/-- The memory after a store of the low bytes of `v` at a physical address (R100, R104). -/
def Memory.writeWidth (big : Bool) (m : Memory) : Width → Nat → Word → Memory
  | .byte, a, v => m.write a (laneOf v 0)
  | .half, a, v => m.writeHalf big a (v.extractLsb' 0 16)
  | .word, a, v => m.writeWord big a v

/-- `PhysWrite` (R96), and the end of the instruction: RAM and the BIOS Data Page (R91, R87); a bus error for ROM
(R94) and where nothing is (R92); registers take words only (R95). A register's action is the last thing that happens,
so that a processor that resets or halts itself does not advance (R382, R383). -/
def State.physStore (s : State) (w : Width) (va : Word) (pa : Nat) (v : Word) : Res State :=
  match regionOf s.cfg pa with
  | .ram => .ok { s.retire with mem := s.mem.writeWidth s.cfg.bigEndian w pa v }
  | .biosData => .ok { s.retire with mem := s.mem.writeWidth s.cfg.bigEndian w pa v }
  | .rom => .exc (.busError .store va)
  | .register r => if w = .word then s.retire.writeRegister v r else .refuse .narrowRegisterAccess
  | .undefined => .exc (.busError .store va)

/-- `MemWrite` (R96) of the low bytes of `v`, and the end of the instruction. -/
def State.memStore (s : State) (w : Width) (ea v : Word) : Res State :=
  match translateAddr s.cfg s.cpu .store w ea with
  | .error e => .exc e
  | .ok pa => s.physStore w ea pa.toNat v

/-- A store of some lanes of an aligned word, for SWL and SWR, and the end of the instruction: never to a register
(R95). -/
def State.physStoreAround (s : State) (va : Word) (pa : Nat) (v : Word) (lanes : Nat → Bool) : Res State :=
  match regionOf s.cfg pa with
  | .ram => .ok { s.retire with mem := s.mem.writeLanes s.cfg.bigEndian pa v lanes }
  | .biosData => .ok { s.retire with mem := s.mem.writeLanes s.cfg.bigEndian pa v lanes }
  | .rom => .exc (.busError .store va)
  | .register _ => .refuse .narrowRegisterAccess
  | .undefined => .exc (.busError .store va)

/-- The store of the selected lanes of a word into the aligned word that contains the byte at `ea` (R235, R236), and
the end of the instruction; no alignment check (R102). -/
def State.memStoreAround (s : State) (ea v : Word) (lanes : Nat → Bool) : Res State :=
  match translateAddr s.cfg s.cpu .store .byte ea with
  | .error e => .exc e
  | .ok pa => s.physStoreAround ea (alignedAddr pa.toNat) v lanes

/-! ## CAS -/

/-- The access of CAS (R290-R293): every check of a word store, then one atomic compare and swap of a RAM word;
anywhere else it fails without an exception. The result is the success flag and the memory after it. -/
def State.memCas (s : State) (ea expected new : Word) : Res (Bool × Memory) :=
  match translateAddr s.cfg s.cpu .store .word ea with
  | .error e => .exc e
  | .ok pa =>
    match regionOf s.cfg pa.toNat with
    | .ram =>
      if s.mem.readWord s.cfg.bigEndian pa.toNat = expected then
        .ok (true, s.mem.writeWord s.cfg.bigEndian pa.toNat new)
      else .ok (false, s.mem)
    | _ => .ok (false, s.mem)

/-! ## Fetch -/

/-- `Fetch(pc)` (R96, R103): the instruction word. A fetch from a register area is refused (D23). -/
def State.fetch (s : State) : Res Word :=
  match translateAddr s.cfg s.cpu .fetch .word s.cpu.pc with
  | .error e => .exc e
  | .ok pa =>
    match regionOf s.cfg pa.toNat with
    | .ram => .ok (s.mem.readWord s.cfg.bigEndian pa.toNat)
    | .biosData => .ok (s.mem.readWord s.cfg.bigEndian pa.toNat)
    | .rom => .ok (s.mem.readWord s.cfg.bigEndian pa.toNat)
    | .register _ => .refuse .fetchFromRegister
    | .undefined => .exc (.busError .fetch s.cpu.pc)

end Sys2Proof.Machine
end

