-- ==== Sys2Proof/Machine/Cas.lean ====
section
/-! DEFINITION. Compare and swap (spec/45_cas.md). -/

namespace Sys2Proof.Machine

/-- CAS (R290-R293). The address, the expected and the new value are all read before any write; `rd` receives 1 on
success and 0 on failure, at once and with no load delay. -/
def execCas (rd rs rt : Reg) (s : State) : Out :=
  s.finish ((s.memCas (s.cpu.src rs) (s.cpu.src rt) (s.cpu.src rd)).map fun p =>
    { s.retireReg rd (boolWord p.1) with mem := p.2 })

end Sys2Proof.Machine
end

