-- ==== Sys2Proof/Machine/LoadStore.lean ====
section
/-! DEFINITION. The loads and stores (spec/42_loadstore.md). Each computes `ea` from the base register and the offset
(R220); exceptions are R221, in the order of R110. Loads leave a load delay slot (R233). -/

namespace Sys2Proof.Machine

/-- The effective address of a load or store (R220). -/
def State.ea (s : State) (base : Reg) (off : Half) : Word := effAddr (s.cpu.src base) off

/-- A load of some width whose value, extended by `ext`, goes to `rt` (R221, R233). -/
def State.load (s : State) (w : Width) (ea : Word) (rt : Reg) (ext : Word → Word) : Out :=
  s.finish ((s.memLoad w ea).map fun p => p.2.retireLoad rt (ext p.1))

/-- An unaligned load that merges the word around `ea` into `rt`; it always merges the up-to-date value of `rt`
(R228, R229, R233). -/
def State.loadAround (s : State) (ea : Word) (rt : Reg) (merge : Word → Word → Word) : Out :=
  s.finish ((s.memLoadAround ea).map fun w => s.retireLoad rt (merge w (s.cpu.reg rt)))

/-! ## Loads -/

/-- LB (R223). -/
def execLb (rt base : Reg) (off : Half) (s : State) : Out :=
  s.load .byte (s.ea base off) rt (fun v => (v.extractLsb' 0 8).signExtend 32)

/-- LBU (R224). -/
def execLbu (rt base : Reg) (off : Half) (s : State) : Out :=
  s.load .byte (s.ea base off) rt (fun v => (v.extractLsb' 0 8).setWidth 32)

/-- LH (R225). -/
def execLh (rt base : Reg) (off : Half) (s : State) : Out :=
  s.load .half (s.ea base off) rt (fun v => (v.extractLsb' 0 16).signExtend 32)

/-- LHU (R226). -/
def execLhu (rt base : Reg) (off : Half) (s : State) : Out :=
  s.load .half (s.ea base off) rt (fun v => (v.extractLsb' 0 16).setWidth 32)

/-- LW (R227). -/
def execLw (rt base : Reg) (off : Half) (s : State) : Out :=
  s.load .word (s.ea base off) rt (fun v => v)

/-- LWL (R228). -/
def execLwl (rt base : Reg) (off : Half) (s : State) : Out :=
  let ea := s.ea base off
  s.loadAround ea rt (lwlMerge (leftShift s.cfg.bigEndian ea))

/-- LWR (R229). -/
def execLwr (rt base : Reg) (off : Half) (s : State) : Out :=
  let ea := s.ea base off
  s.loadAround ea rt (lwrMerge (rightShift s.cfg.bigEndian ea))

/-! ## Stores -/

/-- SB (R230). -/
def execSb (rt base : Reg) (off : Half) (s : State) : Out :=
  s.finish (s.memStore .byte (s.ea base off) (s.cpu.src rt))

/-- SH (R231). -/
def execSh (rt base : Reg) (off : Half) (s : State) : Out :=
  s.finish (s.memStore .half (s.ea base off) (s.cpu.src rt))

/-- SW (R232). -/
def execSw (rt base : Reg) (off : Half) (s : State) : Out :=
  s.finish (s.memStore .word (s.ea base off) (s.cpu.src rt))

/-- SWL (R235). -/
def execSwl (rt base : Reg) (off : Half) (s : State) : Out :=
  let ea := s.ea base off
  let k := leftShift s.cfg.bigEndian ea
  s.finish (s.memStoreAround ea (swlValue k (s.cpu.src rt)) (swlLane k))

/-- SWR (R236). -/
def execSwr (rt base : Reg) (off : Half) (s : State) : Out :=
  let ea := s.ea base off
  let m := rightShift s.cfg.bigEndian ea
  s.finish (s.memStoreAround ea (swrValue m (s.cpu.src rt)) (swrLane m))

end Sys2Proof.Machine
end

