-- ==== Sys2Proof/Machine/MulDiv.lean ====
section
/-! DEFINITION. Multiplication, division and the HI and LO moves (spec/41_muldiv.md). None of them raises an exception
(R210). -/

namespace Sys2Proof.Machine

/-- HI and LO both become unspecified values, and the instruction completes (R213, R214, log 12). -/
def State.retireFreeHiLo (s : State) : State :=
  (s.retireHiLo (Config.freeWord s.draws) (Config.freeWord (s.draws + 1))).drawn 2

/-- MULT (R211). -/
def execMult (rs rt : Reg) (s : State) : Out :=
  let p := signedProduct (s.cpu.src rs) (s.cpu.src rt)
  .next (s.retireHiLo (upperHalf p) (lowerHalf p))

/-- MULTU (R212). -/
def execMultu (rs rt : Reg) (s : State) : Out :=
  let p := unsignedProduct (s.cpu.src rs) (s.cpu.src rt)
  .next (s.retireHiLo (upperHalf p) (lowerHalf p))

/-- DIV (R213, D15). -/
def execDiv (rs rt : Reg) (s : State) : Out :=
  let n := s.cpu.src rs
  let d := s.cpu.src rt
  .next (if divDefined n d then s.retireHiLo (signedRemainder n d) (signedQuotient n d) else s.retireFreeHiLo)

/-- DIVU (R214, D15). -/
def execDivu (rs rt : Reg) (s : State) : Out :=
  let n := s.cpu.src rs
  let d := s.cpu.src rt
  .next (if d = 0 then s.retireFreeHiLo else s.retireHiLo (unsignedRemainder n d) (unsignedQuotient n d))

/-- MFHI (R215). -/
def execMfhi (rd : Reg) (s : State) : Out :=
  .next (s.retireReg rd s.cpu.hi)

/-- MTHI (R216). -/
def execMthi (rs : Reg) (s : State) : Out :=
  .next (s.retireHiLo (s.cpu.src rs) s.cpu.lo)

/-- MFLO (R217). -/
def execMflo (rd : Reg) (s : State) : Out :=
  .next (s.retireReg rd s.cpu.lo)

/-- MTLO (R218). -/
def execMtlo (rs : Reg) (s : State) : Out :=
  .next (s.retireHiLo s.cpu.hi (s.cpu.src rs))

end Sys2Proof.Machine
end

