-- ==== Sys2Proof/Machine/System.lean ====
section
/-! DEFINITION. The system and CP0 instructions (spec/44_system_cp0.md). Every COP0 instruction needs a usable CP0, else
it raises CpU with CE = 0 (R260). -/

namespace Sys2Proof.Machine

/-! ## CP0 registers -/

/-- The CP0 register with an MFC0/MTC0 number, if any (R30). -/
def State.cp0Of (s : State) (n : Reg) : Option Cp0Reg := s.cfg.cp0Regnum.lookup n

/-- Cause as read: the stored fields and the live IP field (R38, R39). -/
def State.causeRead (s : State) : Word :=
  (s.cpu.cause &&& causeStored) ||| ((s.causeIP s.cpu).setWidth 32 <<< 8)

/-- Status as read: an unnamed bit that was written 1 reads 1 or 0, a free choice (R37, log 13). -/
def State.statusRead (s : State) : Word × State :=
  if s.cpu.status &&& statusUnnamed = 0 then (s.cpu.status &&& statusNamed, s)
  else ((s.cpu.status &&& statusNamed) ||| (s.cpu.status &&& statusUnnamed &&& Config.freeWord s.draws), s.drawn 1)

/-- The value of a CP0 register, undocumented bits 0 (R263). A number that names none of the ten reads a free value
(D19, log 16). -/
def State.cp0Read (s : State) : Option Cp0Reg → Word × State
  | some .index => (s.cpu.index &&& indexMask, s)
  | some .random => (tlbIndexWord s.cpu.random, s)
  | some .entryLo => (s.cpu.entryLo &&& entryLoMask, s)
  | some .badVAddr => (s.cpu.badVAddr, s)
  | some .timer => (s.cpu.timer, s)
  | some .entryHi => (s.cpu.entryHi &&& entryHiMask, s)
  | some .status => s.statusRead
  | some .cause => (s.causeRead, s)
  | some .epc => (s.cpu.epc, s)
  | some .prid => (s.cpu.prid.setWidth 32, s)
  | none => (Config.freeWord s.draws, s.drawn 1)

/-- The effect of MTC0 on a CP0 register (R264, R40, R42, R43, R44, R48). Status keeps the bits 28:0 written (R36,
R37); read-only registers and unknown numbers ignore the write (R45, R46, R47, R41, D19). -/
def Cpu.cp0Write (cfg : Config) (c : Cpu) (v : Word) : Option Cp0Reg → Cpu
  | some .index => { c with index := mergeBits 0x3F00#32 c.index v }
  | some .random => c
  | some .entryLo => { c with entryLo := v &&& entryLoMask }
  | some .badVAddr => c
  | some .timer => { c with timer := v, pltPending := false }
  | some .entryHi => { c with entryHi := v &&& entryHiMask }
  | some .status => { c with status := v &&& 0x1FFFFFFF#32 }
  | some .cause => { c with cause := mergeBits (cfg.causeWMask &&& causeStored) c.cause v }
  | some .epc => c
  | some .prid => c
  | none => c

/-! ## TLB -/

/-- The TLB entry held in EntryHi and EntryLo (R266). -/
def Cpu.entryHeld (c : Cpu) : TlbEntry := { hi := c.entryHi, lo := c.entryLo }

/-- The effect of TLBR (R265). -/
def Cpu.tlbReadAt (c : Cpu) (i : TlbIx) : Cpu :=
  { c with entryHi := (c.tlbGet i).hi, entryLo := (c.tlbGet i).lo }

/-- Index.TLB-Index names a slot of the TLB: else TLBR and TLBWI are refused (R266, D11). -/
def State.withTlbIndex (s : State) (effect : TlbIx → Out) : Out :=
  if (tlbIndexOf s.cpu.index).toNat < s.cfg.tlbSize then effect (tlbIndexOf s.cpu.index)
  else .refused .tlbIndexBeyondSize

/-- Index after TLBP: the highest matching slot with P = 0, or P = 1 and a free index (R268, D10, log 17). -/
def State.probed (s : State) : State :=
  match s.cpu.tlbProbe s.cfg (vpnOf s.cpu.entryHi) with
  | some i => { s with cpu := { s.cpu with index := tlbIndexWord i } }
  | none =>
    State.drawn { s with cpu := { s.cpu with
      index := 0x80000000#32 ||| (Config.freeWord s.draws &&& 0x3F00#32) } } 1

/-! ## The instructions -/

/-- SYSCALL (R261). The code field is ignored. -/
def execSyscall (_code : BitVec 20) (s : State) : Out :=
  .next (s.enter .sys)

/-- BREAK (R262). The code field is ignored. -/
def execBrk (_code : BitVec 20) (s : State) : Out :=
  .next (s.enter .bp)

/-- MFC0 (R263, R233). -/
def execMfc0 (rt rd : Reg) (s : State) : Out :=
  s.withCp0
    (let p := s.cp0Read (s.cp0Of rd)
     .next (p.2.retireLoad rt p.1))

/-- MTC0 (R264). -/
def execMtc0 (rt rd : Reg) (s : State) : Out :=
  s.withCp0
    (.next ({ s with cpu := s.cpu.cp0Write s.cfg (s.cpu.src rt) (s.cp0Of rd) } : State).retire)

/-- TLBR (R265). -/
def execTlbr (s : State) : Out :=
  s.withCp0 (s.withTlbIndex fun i =>
    .next ({ s with cpu := s.cpu.tlbReadAt i } : State).retire)

/-- TLBWI (R266). -/
def execTlbwi (s : State) : Out :=
  s.withCp0 (s.withTlbIndex fun i =>
    .next ({ s with cpu := s.cpu.tlbSet i s.cpu.entryHeld } : State).retire)

/-- The slot that TLBWR writes: any of 1 to TLBSIZE - 1, because Random changes every tick (R267, R41, B.3, log 10). -/
def State.randomSlot (s : State) : TlbIx := BitVec.ofNat 6 (Config.freeNat s.draws % (s.cfg.tlbSize - 1) + 1)

/-- TLBWR (R267). -/
def execTlbwr (s : State) : Out :=
  s.withCp0
    (.next (State.drawn { s with cpu := s.cpu.tlbSet s.randomSlot s.cpu.entryHeld } 1).retire)

/-- TLBP (R268). -/
def execTlbp (s : State) : Out :=
  s.withCp0 (.next s.probed.retire)

/-- RFE (R269). -/
def execRfe (s : State) : Out :=
  s.withCp0
    (.next ({ s with cpu := s.cpu.returnFromException } : State).retire)

/-- WAIT (R270). -/
def execWait (s : State) : Out :=
  s.withCp0
    (.next ({ s with cpu := { s.cpu with power := .idle, signalled := false } } : State).retire)

end Sys2Proof.Machine
end

