-- ==== Sys2Proof/Machine/Host.lean ====
section
/-! DEFINITION. What the host does to the machine (spec/70_reset_and_hazards.md R486): it supplies the images and the
devices and switches the machine on (R471, R472, R474), presses Reset (R460), types characters and delivers packets
(R439, R454) and powers off (R399). -/

namespace Sys2Proof.Machine

/-! ## Power-on and Reset -/

/-- A controller right after reset: STATUS 1, COMMAND 0, no operation, no interrupt (R65). -/
def Ctl.atReset : Ctl := { status := stReady, command := 0, act := .ready, req := IntReq.none }

/-- An installed device right after reset: its registers are reset (R65, R423, R438), its medium and what it has put
out stay (R460); characters that the host has buffered and not delivered are gone (R67, R460). DATA0 and DATA1 of a
network adapter are 0: DESIGN CHOICE (log 32, unsafe). -/
def Device.atReset (n : Nat) : Device → Device
  | .disk d => .disk { d with ctl := Ctl.atReset, data0 := 0, curCyl := 0, moved := 0 }
  | .flash d => .flash { d with ctl := Ctl.atReset, data0 := 0, moved := 0 }
  | .network d =>
    .network { d.defaulted (n - 16) with
      ctl := Ctl.atReset, data0 := 0, data1 := 0, rxQueue := [], moved := 0, collected := [] }
  | .printer d => .printer { d with ctl := Ctl.atReset, data0 := 0 }
  | .terminal d => .terminal { d with recv := Ctl.atReset, transm := Ctl.atReset, typed := [] }

/-- The devices that the host's list installs, numbers rising: at each of the 40 numbers the first device listed for it,
if its class belongs to the number's line (R400) and its geometry is in range (R474). Nothing else of the list is
installed. -/
def installedDevices (ds : List (Nat × Device)) : List (Nat × Device) :=
  (List.range 40).filterMap fun n =>
    match ds.lookup n with
    | some d => if lineOfDevice n = d.line ∧ d.geometryOk = true then some (n, d) else none
    | none => none

/-- The devices right after reset. -/
def devicesAtReset (ds : List (Nat × Device)) : List (Nat × Device) := ds.map fun p => (p.1, p.2.atReset p.1)

/-- The cells of ROM addresses. -/
def Memory.romOnly (cfg : Config) (m : Memory) : Memory :=
  { cells := m.cells.filter fun c => regionOf cfg c.1 == .rom }

/-- Memory right after reset: the ROM images stay, RAM holds the core image from 0x2000.1000 on (R471), every other
byte is as unlisted (log 3). -/
def Memory.atReset (cfg : Config) (m : Memory) : Memory :=
  if cfg.loadCore then (m.romOnly cfg).writeBytes 0x20001000 cfg.coreImage else m.romOnly cfg

/-- The secondary processors right after reset, Halted (R65). -/
def secondariesAtReset (cfg : Config) : List Cpu :=
  (List.range (cfg.ncpu - 1)).map fun k => Cpu.atReset cfg (k + 1) .halted

/-- A machine reset: every piece of state takes its value of R65; the configuration, the ROM images, the media and
the host's side stay (R460). The number of the current tick and of the free values used go on. -/
def State.machineReset (s : State) : State :=
  { s with
    cpu := Cpu.atReset s.cfg 0 .running
    todo := secondariesAtReset s.cfg
    done := []
    mem := s.mem.atReset s.cfg
    tod := 0
    intervalTimer := 0xFFFFFFFF#32
    itReq := IntReq.none
    irt := Vector.replicate 48 0
    bootPc := 0
    bootSp := 0
    powerOffAt := none
    devices := devicesAtReset s.devices }

/-- The machine that the host switches on: a configuration, the two ROM images (R472), the installed devices (R400) and
what the host will do. The sizes in the configuration are those of the images (R374). -/
def State.powerOn (cfg : Config) (execRom bootRom : List Byte) (devices : List (Nat × Device))
    (inputs : List HostInput) : State :=
  let cfg' := { cfg with execSize := execRom.length, bootSize := bootRom.length }
  State.machineReset
    { State.reset with
      cfg := cfg'
      mem := (State.reset.mem.writeBytes 0 execRom).writeBytes 0x1FC00000 bootRom
      devices := installedDevices devices
      inputs := inputs }

/-! ## Events while the machine runs -/

/-- Characters, packets and hardware failures act in the device phase of a tick (R480, R410). -/
def State.hostData (s : State) (i : HostInput) : State :=
  match i.event with
  | .termChar dev ch => s.typeChar dev ch
  | .packet dev p => s.arrivePacket dev p
  | .hardwareFailure n transm code => s.failDevice n transm code
  | .reset => s
  | .powerOff => s

/-- Reset and power-off act at the end of a tick (R460, R399). -/
def State.hostControl (s : State) (i : HostInput) : State :=
  match i.event with
  | .termChar _ _ => s
  | .packet _ _ => s
  | .hardwareFailure _ _ _ => s
  | .reset => s.machineReset
  | .powerOff => { s with stopped := true }

/-- The host's events that are due at this tick, in their order. -/
def State.dueInputs (s : State) : List HostInput := s.inputs.filter fun i => decide (i.due ≤ s.now)

end Sys2Proof.Machine
end

