-- ==== Sys2Proof/Machine/Tick.lean ====
section
/-! DEFINITION. The end of a processor's turn and of a clock tick (spec/70_reset_and_hazards.md R480): device
completions and host events, the clocks and timers, power-off, and the order of turns. -/

namespace Sys2Proof.Machine

/-! ## Clocks -/

/-- Random after a tick (R41). -/
def Cpu.nextRandom (cfg : Config) (c : Cpu) : TlbIx :=
  if c.random.toNat ≤ 1 then BitVec.ofNat 6 (cfg.tlbSize - 1) else c.random - 1

/-- The Processor Local Timer after a tick: it counts, and interrupts on underflow, while Status.TE = 1 (R48,
R372). -/
def Cpu.tickTimer (c : Cpu) : Cpu :=
  if statusTE c.status then
    { c with
      timer := c.timer - 1
      pltPending := c.pltPending || c.timer == 0
      signalled := c.signalled || c.timer == 0 }
  else c

/-- A processor at the end of a tick (R480); a Halted one has no state to keep (R50). -/
def Cpu.tick (cfg : Config) (c : Cpu) : Cpu :=
  if c.power = .halted then c else { c.tickTimer with random := c.nextRandom cfg }

/-- The Interval Timer at the end of a tick: an interrupt on underflow, then the count (R371). -/
def State.tickInterval (s : State) : State :=
  if s.intervalTimer = 0 then
    let (r, s1) := s.raiseReq 0 s.itReq
    { s1 with itReq := r, intervalTimer := s1.intervalTimer - 1 }
  else { s with intervalTimer := s.intervalTimer - 1 }

/-- Phase 3 of a tick: TOD, the Interval Timer and the processors' own timers (R370, R371, R48, R41). -/
def State.tickClocks (s : State) : State :=
  State.mapCpus (Cpu.tick s.cfg) { s.tickInterval with tod := s.tod + 1 }

/-! ## The tick -/

/-- Phase 2 of a tick: every device completion that is due, then the host's characters and packets (R480, R410,
R439, R454; log 30). -/
def State.tickDevices (s : State) : State :=
  s.dueInputs.foldl State.hostData ((s.devices.map Prod.fst).foldl State.completeDevice s)

/-- Phase 4 of a tick: a power-off whose delay has elapsed is complete (R384). -/
def State.tickPower (s : State) : State :=
  match s.powerOffAt with
  | none => s
  | some t => if t ≤ s.now then { s with stopped := true } else s

/-- The end of a tick after every processor has had its turn (R480), the host's Reset and power-off last. -/
def State.tick (s : State) : State :=
  let s1 := s.tickDevices.tickClocks.tickPower
  let s2 := s.dueInputs.foldl State.hostControl s1
  { s2 with
    inputs := s2.inputs.filter fun i => !decide (i.due ≤ s2.now)
    now := s2.now + 1 }

/-! ## Turns -/

/-- Element `k` of the list `c :: rest`, and the others. -/
def pickAt (c : Cpu) (rest : List Cpu) (k : Nat) : Cpu × List Cpu :=
  match rest, k with
  | [], _ => (c, [])
  | _ :: _, 0 => (c, rest)
  | d :: ds, n + 1 => ((pickAt d ds n).1, c :: (pickAt d ds n).2)

/-- One of the processors `c :: rest` takes the next turn, a free choice (R125, log 23). -/
def State.takeTurn (s : State) (c : Cpu) (rest : List Cpu) : State :=
  match rest with
  | [] => { s with cpu := c, todo := [] }
  | d :: ds =>
    let k := Config.freeNat s.draws % (ds.length + 2)
    State.drawn { s with cpu := (pickAt c (d :: ds) k).1, todo := (pickAt c (d :: ds) k).2 } 1

/-- A new tick begins: every processor has its turn to come. -/
def State.startTick (s : State) : State := State.takeTurn { s with done := [] } s.cpu (s.todo ++ s.done)

/-- The current processor has had its turn: the next one's follows, or the end of the tick (R480). -/
def State.passTurn (s : State) : State :=
  match s.todo with
  | [] => s.tick.startTick
  | c :: rest => State.takeTurn { s with done := s.cpu :: s.done } c rest

/-- The end of a turn: transfers under way may move on (R124), then the next turn follows (R480). -/
def State.endTurn (s : State) : State := s.dmaGap.passTurn

/-- A signal that ends the Idle state: a line of Cause.IP is pending, masked or not; with `WAIT_PENDING` only one
that was signalled after the WAIT (R270, R480, log 25). -/
def State.wakes (s : State) : Bool :=
  if s.cfg.waitNeedsSignal then s.cpu.signalled else s.causeIP s.cpu != 0

/-- The turn of an Idle processor: it executes nothing and may become Running (R480, R483). -/
def State.idleTurn (s : State) : State :=
  if s.wakes then { s with cpu := { s.cpu with power := .running } } else s

end Sys2Proof.Machine
end

