-- ==== Sys2Proof/Machine/Turn.lean ====
section
/-! DEFINITION. One processor's turn in a clock tick (spec/70_reset_and_hazards.md R480): the interrupt test, the
fetch, the decoding, the execution, and what follows; and how the host places an instruction word. -/

namespace Sys2Proof.Machine

/-- A turn whose outcome is `o` is over (R480). -/
def turnOver : Out → Out
  | .next t => .next t.endTurn
  | .fault f => .fault f
  | .refused r => .refused r

/-- Execute an instruction word: decode it and run its meaning, or take the exception of a word that is no
instruction (R149-R153, R271, R272). -/
def State.execute (s : State) (w : Word) : Out :=
  match decode w with
  | .instr i => exec i s
  | .copUnusable z => .next (s.enter (.copUnusable z))
  | .cop0Reserved => if s.cpu.cp0Usable then .next (s.enter .ri) else .next (s.enter (.copUnusable 0))
  | .reserved => .next (s.enter .ri)
  | .mustBeZero => .refused .mustBeZero

/-- `Step(c)` of a Running processor (R480, R354): an accepted interrupt displaces the instruction at `pc`. -/
def State.runTurn (s : State) : Out :=
  if s.intAccepted then .next (s.enter .int)
  else
    match s.fetch with
    | .ok w => s.execute w
    | .exc e => .next (s.enter e)
    | .refuse r => .refused r

/-- The turn of the current processor (R480, R387). One that is stuck in the BIOS's loop does nothing that anything can
observe (R316). -/
def State.turn (s : State) : Out :=
  match s.cpu.power with
  | .halted => turnOver (.next s)
  | .idle => turnOver (.next s.idleTurn)
  | .running => turnOver s.runTurn
  | .stuck => turnOver (.next s)

/-- The sizes of the ROM images grown so that the word at a physical address lies in one, where the address belongs
to a ROM's area (R86, R90). -/
def romAt (cfg : Config) (pa : Nat) : Config :=
  if pa < 0x0FFFF000 then { cfg with execSize := max cfg.execSize (alignedAddr pa + 4) }
  else if 0x1FC00000 ≤ pa ∧ pa < 0x20000000 then
    { cfg with bootSize := max cfg.bootSize (alignedAddr pa - 0x1FC00000 + 4) }
  else cfg

/-- The machine with an instruction word where the current processor fetches its next one. It stands for the host's
loading of an image (log 8). -/
def State.placeWord (s : State) (w : Word) : State :=
  match translateAddr s.cfg s.cpu .fetch .word s.cpu.pc with
  | .error _ => s
  | .ok pa =>
    { s with
      cfg := romAt s.cfg pa.toNat
      mem := s.mem.writeWord s.cfg.bigEndian pa.toNat w }

end Sys2Proof.Machine
end

