-- ==== Sys2Proof/Machine/Step.lean ====
section
/-! DEFINITION. One step of the machine: the turn of the current processor and, when every processor has had its turn,
the end of the clock tick (spec/70_reset_and_hazards.md R480). -/

namespace Sys2Proof.Machine

/-- One step. After the power-off is complete no agent takes any further step (R384, R399). -/
def step (s : State) : Host.Outcome State Fault Refusal :=
  if s.stopped then .fault .poweredOff else s.turn

/-- The table row bits `w` (bits at and above `nbits` are 0) stored where the current processor fetches its next
instruction (log 8). -/
def State.withFetchWord (s : State) (nbits w : Nat) : State := s.placeWord (BitVec.ofNat 32 (w % 2 ^ nbits))

end Sys2Proof.Machine
end

