-- ==== Sys2Proof/Machine/Bios.lean ====
section
/-! DEFINITION. The contracts of libumps and of the default BIOS (spec/46_libumps_bios.md R307-R317, and R461 of
spec/70_reset_and_hazards.md), and of `_start` (R464, R468): the net effect of each routine on the processor that runs it. The step does not use
them: the machine executes the ROM images it is given like any other code (R320, log 37), and these are what the
default images do, in some positive number of ticks (R309) that the contracts leave out. What a routine leaves
unspecified is a free value. -/

namespace Sys2Proof.Machine

/-! ## The processor state block (R60) -/

/-- The 29 general registers of a processor state, in the order of `s_reg[0..28]` (R60). -/
def stateRegs : List Reg :=
  [1, 2, 3, 4, 5, 6, 7, 8, 9, 10, 11, 12, 13, 14, 15, 16, 17, 18, 19, 20, 21, 22, 23, 24, 25, 28, 29, 30, 31]

/-- The 35 words of a processor state with `pc` as its `s_pc` (R60), and the machine after Status is read (R37). -/
def State.stateBlock (s : State) (pc : Word) : List Word × State :=
  ([s.cpu.entryHi, s.causeRead, s.statusRead.1, pc] ++ stateRegs.map s.cpu.reg ++ [s.cpu.hi, s.cpu.lo],
    s.statusRead.2)

/-- Write consecutive words. -/
def Memory.writeWords (big : Bool) (m : Memory) (a : Nat) : List Word → Memory
  | [] => m
  | w :: ws => (m.writeWord big a w).writeWords big (a + 4) ws

/-- Load general registers from consecutive words (R314). -/
def Cpu.loadRegs (c : Cpu) (word : Nat → Word) : Nat → List Reg → Cpu
  | _, [] => c
  | k, r :: rs => (c.setReg r (word k)).loadRegs word (k + 1) rs

/-- The address of processor `p`'s exception state area (R310). -/
def exceptionArea (p : CpuId) : Word := 0x0FFFF000#32 + 0x8C#32 * p.setWidth 32

/-- The address of processor `p`'s Pass Up Vector (R62, R310). -/
def passUpVector (p : CpuId) : Word := 0x0FFFF900#32 + 0x10#32 * p.setWidth 32

/-! ## What the routines share -/

/-- Control reaches `pc`, outside every delay slot. -/
def State.goTo (s : State) (pc : Word) : State :=
  { s with cpu := { s.cpu with pc := pc, npc := pc + 4, inDelay := false, loadDelay := none } }

/-- A libumps function returns: `jr $31` (R256). -/
def State.returnToCaller (s : State) : State := s.goTo (s.cpu.reg 31)

/-- General registers take free values. -/
def State.clobber (s : State) (rs : List Reg) : State :=
  { s with
    cpu := s.cpu.loadRegs (fun k => Config.freeWord (s.draws + k)) 0 rs
    draws := s.draws + rs.length }

/-- HI and LO take free values. -/
def State.clobberHiLo (s : State) : State :=
  { s with
    cpu := { s.cpu with hi := Config.freeWord s.draws, lo := Config.freeWord (s.draws + 1) }
    draws := s.draws + 2 }

/-- The registers that a function need not keep: `at`, `v0`, `v1`, `a0`..`a3`, `t0`..`t9` (R256). -/
def callerSaved : List Reg := [1, 2, 3, 4, 5, 6, 7, 8, 9, 10, 11, 12, 13, 14, 15, 24, 25]

/-- Every general register but register 0. -/
def allRegs : List Reg := callerSaved ++ [16, 17, 18, 19, 20, 21, 22, 23, 26, 27, 28, 29, 30, 31]

/-- The processor at an unspecified instruction of libumps, which may be in a delay slot: what an exception raised
there records. -/
def State.inLibrary (s : State) : State :=
  { s with
    cpu := { s.cpu with
      pc := Config.freeWord s.draws &&& 0xFFFFFFFC#32
      inDelay := Config.freeBit (s.draws + 1) }
    draws := s.draws + 2 }

/-- The address of word `k` of `EXEC_ROM`. -/
def execAddress (cfg : Config) (k : Nat) : Word := BitVec.ofNat 32 (4 * (k % max 1 (cfg.execSize / 4)))

/-! ## libumps services -/

/-- The entries that TLBCLR leaves: slot 0 is kept (R307, C21). -/
def Cpu.clearTlb (cfg : Config) (c : Cpu) : Cpu :=
  { c with tlb := Vector.ofFn fun i =>
      if i.val = 0 ∨ cfg.tlbSize ≤ i.val then c.tlb[i] else { hi := 0, lo := 0 } }

/-- The cleared TLB of TLBCLR, with Index, EntryHi and EntryLo unspecified (R307, D37). -/
def State.tlbCleared (s : State) : State :=
  State.drawn { s with cpu := { s.cpu.clearTlb s.cfg with
    index := Config.freeWord s.draws &&& indexMask
    entryHi := Config.freeWord (s.draws + 1) &&& entryHiMask
    entryLo := Config.freeWord (s.draws + 2) &&& entryLoMask } } 3

/-- TLBCLR (R307, R319): CpU with CE = 0 where CP0 is not usable. Which general registers its code uses as scratch, and
whether it uses HI and LO, is not in the source. PRESUMED (log 37): it keeps those that a function must keep by the
convention of R256 (`s0`..`s7`, `gp`, `sp`, `fp`, `ra`) and `k0`, `k1`; all others, HI and LO are free after it. -/
def State.tlbClr (s : State) : Out :=
  let u := (s.clobber callerSaved).clobberHiLo
  if s.cpu.cp0Usable then .next u.tlbCleared.returnToCaller else .next (u.inLibrary.enter (.copUnusable 0))

/-- Store consecutive words with ordinary SW instructions (R308): the machine after the stores that were done, and how
the last one ended. -/
def State.storeWords (s : State) (a : Word) : List Word → State × Res Unit
  | [] => (s, .ok ())
  | w :: ws =>
    match s.memStore .word a w with
    | .ok t => t.storeWords (a + 4) ws
    | .exc e => (s, .exc e)
    | .refuse r => (s, .refuse r)

/-- STST (R308, R319): the current state, with 0 as `s_pc`, at logical address `statep`; `v0` and `at` are unspecified
inside the function and after it. Where CP0 is not usable its first MFC0 raises CpU with CE = 0, before any store. A
store that fails raises its exception inside the function, and the stores before it are done. -/
def State.stst (s : State) (statep : Word) : Out :=
  let u := (State.clobber { s with cpu := s.cpu.setReg 4 statep } [1, 2]).inLibrary
  if u.cpu.cp0Usable then
    match (u.stateBlock 0).2.storeWords statep (u.stateBlock 0).1 with
    | (t, .ok _) => .next (t.clobber [1, 2]).returnToCaller
    | (t, .exc e) => .next (t.inLibrary.enter e)
    | (_, .refuse r) => .refused r
  else .next (u.enter (.copUnusable 0))

/-! ## The BIOS handlers -/

/-- `BIOS_SVC_CODES` (R313, D36): the value of `a0` that selects a service. The four values are distinct. -/
def serviceCode : BiosService → Word
  | .ldst => Config.biosCodeOrder 0
  | .ldcxt => Config.biosCodeOrder 1
  | .panic => Config.biosCodeOrder 2
  | .halt => Config.biosCodeOrder 3

/-- Which service the BIOS-Excpt handler performs: the one whose code is in `a0`, for a BREAK from kernel mode
(R313); none means that the exception is passed up. -/
def State.biosService (s : State) : Option BiosService :=
  if s.cpu.cause.extractLsb' 2 5 = 9 ∧ s.cpu.status.getLsbD 3 = false then
    [BiosService.ldst, .ldcxt, .panic, .halt].find? fun v => s.cpu.reg 4 == serviceCode v
  else none

/-- BIOSReserved1 and BIOSReserved2 hold the values that the contracts rely on (R310). -/
def Cpu.biosAddresses (c : Cpu) : Bool :=
  c.biosReserved1 == exceptionArea c.prid && c.biosReserved2 == passUpVector c.prid

/-- Pass-up (R311): the state of the interrupted code goes to the area in BIOSReserved1; `pc` (and `t9`) and `sp`
come from the vector in BIOSReserved2; every other general register, HI and LO are unspecified (D37). R311 does not name
Index and EntryLo: DESIGN CHOICE (log 50), they are unspecified too, by the "all else" of D37, and the TLB and the rest
of the machine are as they were. It is refused unless the two registers hold their values of R310. -/
def State.passUp (s : State) (refill : Bool) : Out :=
  if s.cpu.biosAddresses then
    let m := s.mem.writeWords s.cfg.bigEndian s.cpu.biosReserved1.toNat (s.stateBlock s.cpu.epc).1
    let v := s.cpu.biosReserved2.toNat + (if refill then 0 else 8)
    let pc := m.readWord s.cfg.bigEndian v
    let sp := m.readWord s.cfg.bigEndian (v + 4)
    let t := (State.clobber { (s.stateBlock s.cpu.epc).2 with mem := m } allRegs).clobberHiLo
    let c := { (t.cpu.setReg 25 pc).setReg 29 sp with
      index := Config.freeWord t.draws &&& indexMask
      entryLo := Config.freeWord (t.draws + 1) &&& entryLoMask }
    .next (State.goTo { t with cpu := c, draws := t.draws + 2 } pc)
  else .refused .biosReservedChanged

/-- A physical address holds a readable word of R314: RAM, the BIOS Data Page or a ROM (R52). DESIGN CHOICE (log 51,
safe): a word of a register area is none, although LW can read it (R95, R105), so that LDST is refused there. -/
def wordReadable (cfg : Config) (a : Nat) : Bool :=
  match regionOf cfg a with
  | .ram => true
  | .biosData => true
  | .rom => true
  | .register _ => false
  | .undefined => false

/-- `statep` is the word-aligned address of 35 readable words (R314). -/
def goodStatePointer (cfg : Config) (statep : Word) : Bool :=
  statep.extractLsb' 0 2 == 0 && (List.range 35).all fun k => wordReadable cfg (statep.toNat + 4 * k)

/-- LDST (R314): all 35 registers from the block at physical address `statep`, then the pop of the KU/IE stack; `k0`
and `k1` are unspecified. A bad `statep` is refused. -/
def State.ldst (s : State) (statep : Word) : Out :=
  if goodStatePointer s.cfg statep then
    let word : Nat → Word := fun k => s.mem.readWord s.cfg.bigEndian (statep.toNat + 4 * k)
    let c1 := s.cpu.cp0Write s.cfg (word 0) (some .entryHi)
    let c2 := c1.cp0Write s.cfg (word 1) (some .cause)
    let c3 := (c2.cp0Write s.cfg (word 2) (some .status)).returnFromException
    let c4 := c3.loadRegs word 4 stateRegs
    .next ((State.clobber { s with cpu := { c4 with hi := word 33, lo := word 34 } } [26, 27]).goTo (word 3))
  else .refused .badStatePointer

/-- The registers that LDCXT clobbers: `at`, `v0`, `v1`, `a0`..`a3`, `k0`, `k1` (R315, D37). -/
def ldcxtClobbers : List Reg := [1, 2, 3, 4, 5, 6, 7, 26, 27]

/-- LDCXT (R315): `sp`, Status with the pop of the KU/IE stack, `pc` and `t9`. -/
def State.ldcxt (s : State) (stackPtr status pc : Word) : State :=
  let c := (s.cpu.cp0Write s.cfg status (some .status)).returnFromException
  (State.clobber { s with cpu := (c.setReg 29 stackPtr).setReg 25 pc } ldcxtClobbers).goTo pc

/-! ## PANIC and HALT (R316) -/

/-- The words that a service displays, in lower case (R316). -/
def serviceWords : BiosService → List Byte
  | .panic => "kernel panic".toList.map fun c => BitVec.ofNat 8 c.toNat
  | .halt => "system halted".toList.map fun c => BitVec.ofNat 8 c.toNat
  | .ldst => []
  | .ldcxt => []

/-- A letter in upper case. -/
def upperCase (ch : Byte) : Byte := if 0x61 ≤ ch.toNat ∧ ch.toNat ≤ 0x7A then ch - 0x20 else ch

/-- The text that a service displays: its words, with unspecified capitalisation and perhaps a newline (R316). -/
def serviceText (v : BiosService) : List Byte :=
  ((serviceWords v).mapIdx fun k ch => if Config.textUpper v k then upperCase ch else ch) ++
    (if Config.textNewline v then [0x0A] else [])

/-- The BIOS waits until the transmitter of terminal 0 (device 32) has completed what it is doing. -/
def State.awaitTransm (s : State) : State :=
  match s.device 32 with
  | some (.terminal t) =>
    if t.transm.frozen then
      let (t1, s1) := s.completeTransm 32 t
      s1.setDevice 32 (.terminal t1)
    else s
  | _ => s

/-- The BIOS stores a word to TRANSM_COMMAND of terminal 0; nothing happens if it is not installed (R405). -/
def State.commandTerminal0 (s : State) (v : Word) : State :=
  match s.device 32 with
  | some (.terminal t) => s.commandTransm 32 t v
  | _ => s

/-- The BIOS transmits a character through terminal 0 and waits for its completion (R316, R450, R453). DESIGN CHOICE
(log 37): it waits for a busy transmitter first, and whether it acknowledges the completion is free. -/
def State.transmitChar (s : State) (ch : Byte) : State :=
  let t := (s.awaitTransm.commandTerminal0 (termStatus ch 2)).awaitTransm
  if Config.freeBit t.draws then (t.drawn 1).commandTerminal0 1 else t.drawn 1

/-- PANIC and HALT (R316), and the Kernel Panic routine (R461, R462), which is PANIC's: the text, then an endless loop
inside `EXEC_ROM` with interrupts disabled. Which registers the code leaves changed is not in the source: all general
registers (`k0` and `k1` among them, R312), HI and LO are free. -/
def State.stopService (s : State) (v : BiosService) : State :=
  let t := (((serviceText v).foldl State.transmitChar s).clobber allRegs).clobberHiLo
  State.goTo
    { t with cpu := { t.cpu with power := .stuck, status := mergeBits 1#32 t.cpu.status 0 } }
    (execAddress s.cfg (Config.loopIndex v))

/-! ## Dispatch -/

/-- libumps' LDST, LDCXT, PANIC and HALT (R313): the service code in `a0`, then BREAK, with the arguments in `a1`..`a3`
(log 37). Its own scratch registers are unspecified: `at`, `v0`, `v1` and what is left of `a0`..`a3`, since R315 keeps
the others over LDCXT. -/
def State.callService (s : State) (v : BiosService) (args : List Word) : State :=
  let t := s.clobber [1, 2, 3, 4, 5, 6, 7]
  let word : Nat → Word := fun k => (serviceCode v :: args).getD k 0
  State.enter
    (State.inLibrary { t with cpu := t.cpu.loadRegs word 0 (([4, 5, 6, 7] : List Reg).take (args.length + 1)) }) .bp

/-- The BIOS-Excpt handler (R313), with the arguments of the services in `a1`..`a3`: how libumps passes them is not
stated, so this placement is a DESIGN CHOICE (log 37, unsafe). -/
def State.biosExcpt (s : State) : Out :=
  match s.biosService with
  | none => s.passUp false
  | some .ldst => s.ldst (s.cpu.reg 5)
  | some .ldcxt => .next (s.ldcxt (s.cpu.reg 5) (s.cpu.reg 6) (s.cpu.reg 7))
  | some .panic => .next (s.stopService .panic)
  | some .halt => .next (s.stopService .halt)

/-- The BIOS-TLB-Refill handler (R311). -/
def State.biosRefill (s : State) : Out := s.passUp true

/-! ## Starting processors and the machine -/

/-- The start routine on the target of INITCPU (R317): the two cached addresses, then LDST of the start state. -/
def State.startRoutine (s : State) (startState : Word) : Out :=
  State.ldst { s with cpu := { s.cpu with
      biosReserved1 := exceptionArea s.cpu.prid
      biosReserved2 := passUpVector s.cpu.prid } } startState

/-- INITCPU on the caller (R317, R319): in user mode its store to BootPC raises an Address Error; else BootPC names the
start routine while ResetCPU is written, the target is reset, BootPC and BootSP are unspecified after it, and the
caller has returned. The registers it keeps are those of `tlbClr` (PRESUMED, log 37). -/
def State.initCpuCaller (s : State) (cpuid : Word) : Out :=
  let u := (s.clobber callerSaved).clobberHiLo
  if statusKUc s.cpu.status then .next (u.inLibrary.enter (.addressError .store 0x10000508#32))
  else
    let t := State.writeResetCpu { u.returnToCaller with
      bootPc := execAddress s.cfg Config.startRoutineIndex
      bootSp := Config.freeWord u.draws
      draws := u.draws + 1 } cpuid
    .next { t with
      bootPc := Config.freeWord t.draws
      bootSp := Config.freeWord (t.draws + 1)
      draws := t.draws + 2 }

/-- INITCPU (R317): what happens on the caller, and what the start routine does on the target when it runs there. How
`start_state` reaches the target is not stated, so the contract hands it over directly. -/
def State.initCpu (s : State) (cpuid startState : Word) : Out × (State → Out) :=
  (s.initCpuCaller cpuid, fun t => t.startRoutine startState)

/-- The registers that the default bootstrap leaves unspecified (R461). -/
def bootstrapClobbers : List Reg := callerSaved ++ [26, 27, 31]

/-- An unspecified positive number of ticks passes (R309, R461, R464): TOD and the Interval Timer advance by it (R370,
R371), and Random holds any value of its range (R482, B.3). The Timer stands still, because Status.TE is 0 then. -/
def State.ticksPass (s : State) : State :=
  let n := 1 + Config.freeNat (s.draws + 1)
  { s with
    cpu := { s.cpu with random := s.randomSlot }
    tod := s.tod + BitVec.ofNat 64 n
    intervalTimer := s.intervalTimer - BitVec.ofNat 32 n
    itReq := { s.itReq with pending := s.itReq.pending || decide (s.intervalTimer.toNat < n) }
    now := s.now + n
    draws := s.draws + 2 }

/-- The default bootstrap of processor 0 (R461): Kernel Panic in the Pass Up Vector, Status.BEV = 0, the two cached
addresses (D35), and the jump to the start address in the core image's header. What R461 leaves `any` is free, and an
unspecified number of ticks passes. -/
def State.bootstrap (s : State) : State :=
  let big := s.cfg.bigEndian
  let panic := execAddress s.cfg Config.kernelPanicIndex
  let m := (s.mem.writeWord big 0x0FFFF900 panic).writeWord big 0x0FFFF908 panic
  let t := (State.clobber { s with mem := m } bootstrapClobbers).clobberHiLo
  State.ticksPass (State.goTo
    { t with cpu := { t.cpu with
        status := mergeBits 0x400000#32 s.cpu.status 0
        biosReserved1 := exceptionArea 0
        biosReserved2 := passUpVector 0 } }
    (m.readWord big 0x20001004))

/-! ## `_start` (R464, R468) -/

/-- Where the header of the program lies that `_start` belongs to (R468, R470, R471). -/
def startHeader : StartFile → Word
  | .crtso => 0x20001000#32
  | .crti => 0x80000000#32

/-- A word inside the code of `_start`, which begins right after the header (R470, R471). -/
def insideStart (f : StartFile) (k : Nat) : Word :=
  startHeader f + 0xB0#32 + BitVec.ofNat 32 (4 * (k % max 1 (Config.startWords f)))

/-- The processor at an unspecified instruction of `_start`, which may be in a delay slot. -/
def State.inStart (s : State) (f : StartFile) : State :=
  { s with
    cpu := { s.cpu with pc := insideStart f (Config.freeNat s.draws), inDelay := Config.freeBit (s.draws + 1) }
    draws := s.draws + 2 }

/-- The registers that `_start` leaves unspecified or writes: all, but `sp` for `crti.o`, which does not initialise it
(R464, R468). -/
def startClobbers : StartFile → List Reg
  | .crtso => allRegs
  | .crti => allRegs.filter fun r => r != 29

/-- `sp` and `t9` at `main` (R464, R468): `crtso.o` sets `sp` to the end of the first page of RAM and calls `main`
through `t9`; `crti.o` keeps `sp`, and what it does with `t9` is not stated. -/
def Cpu.startRegs (c : Cpu) (f : StartFile) (main : Word) : Cpu :=
  match f with
  | .crtso => (c.setReg 29 0x20001000#32).setReg 25 main
  | .crti => c

/-- The registers besides the general ones that R464 does not list take free values: Index, Random in its range, EntryLo,
BadVAddr, Timer, EntryHi, the stored fields of Cause, EPC, the TLB, TPR, BootPC and BootSP (R464, B.3, log 52). -/
def State.clobberControl (s : State) : State :=
  { s with
    cpu := { s.cpu with
      random := s.randomSlot
      index := Config.freeWord (s.draws + 1) &&& indexMask
      entryLo := Config.freeWord (s.draws + 2) &&& entryLoMask
      badVAddr := Config.freeWord (s.draws + 3)
      timer := Config.freeWord (s.draws + 4)
      entryHi := Config.freeWord (s.draws + 5) &&& entryHiMask
      cause := Config.freeWord (s.draws + 6) &&& causeStored
      epc := Config.freeWord (s.draws + 7)
      tpr := (Config.freeWord (s.draws + 8)).extractLsb' 0 4
      tlb := freeTlb (s.draws + 11) }
    bootPc := Config.freeWord (s.draws + 9)
    bootSp := Config.freeWord (s.draws + 10)
    draws := s.draws + 139 }

/-- What `_start` leaves unspecified on its way to `main`: general registers, HI and LO, and for the kernel's `crtso.o`
the other registers of R464 too. A U-proc's `crti.o` runs in user mode and reaches none of these. -/
def State.startClobbered (s : State) (f : StartFile) : State :=
  let t := (s.clobber (startClobbers f)).clobberHiLo
  match f with
  | .crtso => t.clobberControl
  | .crti => t

/-- `_start` from its first instruction to `main` (R464, R468): `gp` is the $GP Start Value of the program's header, read
like any word, so that the read may raise its exception inside `_start`; `ra` is inside `_start`; `sp` and `t9` are those
of `Cpu.startRegs`; the registers of `State.startClobbered` are unspecified. Where `main` lies is the program's. -/
def State.startUp (s : State) (f : StartFile) (main : Word) : Out :=
  match s.memLoad .word (startHeader f + 0xA8#32) with
  | .ok (gp, s1) =>
    let t := s1.startClobbered f
    let c := ((t.cpu.startRegs f main).setReg 28 gp).setReg 31 (insideStart f (Config.freeNat t.draws))
    .next (State.goTo { t with cpu := c, draws := t.draws + 1 } main)
  | .exc e => .next (((s.startClobbered f).inStart f).enter e)
  | .refuse r => .refused r

/-- `_start` after `main` has returned to it (R468): `crtso.o` invokes HALT; `crti.o` loads `a0` and executes SYSCALL,
with HI, LO and the registers that a function need not keep unspecified. -/
def State.afterMain (s : State) : StartFile → State
  | .crtso => s.callService .halt []
  | .crti =>
    let t := (s.clobber callerSaved).clobberHiLo
    (State.inStart { t with cpu := t.cpu.setReg 4 Config.exitCode } .crti).enter .sys

/-- From a machine reset to the kernel's `main` with the default ROMs and `crtso.o` (R461, R464). -/
def State.bootToMain (s : State) (main : Word) : Out := s.bootstrap.startUp .crtso main

end Sys2Proof.Machine
end

