-- ==== Sys2Proof/Safety.lean ====
section
/-! DEFINITION. The terms in which claims about the machine are made: what it means that an instruction wrote one
register and nothing else, that an exception was taken, that a state is well formed. Nothing here is part of the
machine. -/

namespace Sys2Proof.Machine

/-! ## Frames -/

/-- Every register of CP0 but Cause, Status, EPC, BadVAddr and EntryHi, the TLB, the power state and the Processor
Interface are as before (R344). -/
def Cpu.SamePrivate (c d : Cpu) : Prop :=
  d.prid = c.prid ∧ d.index = c.index ∧ d.random = c.random ∧ d.entryLo = c.entryLo ∧ d.timer = c.timer ∧
  d.tlb = c.tlb ∧ d.power = c.power ∧ d.pltPending = c.pltPending ∧ d.ipiQueue = c.ipiQueue ∧ d.tpr = c.tpr ∧
  d.biosReserved1 = c.biosReserved1 ∧ d.biosReserved2 = c.biosReserved2 ∧ d.signalled = c.signalled

/-- The registers that exception entry writes are as before (R340, R343). -/
def Cpu.SameException (c d : Cpu) : Prop :=
  d.cause = c.cause ∧ d.status = c.status ∧ d.epc = c.epc ∧ d.badVAddr = c.badVAddr ∧ d.entryHi = c.entryHi

/-- All of CP0, the TLB, the power state and the Processor Interface are as before. -/
def Cpu.SameControl (c d : Cpu) : Prop := c.SamePrivate d ∧ c.SameException d

/-- HI and LO are as before. -/
def Cpu.SameHiLo (c d : Cpu) : Prop := d.hi = c.hi ∧ d.lo = c.lo

/-- Every general register reads as before. -/
def Cpu.SameRegs (c d : Cpu) : Prop := ∀ r, d.reg r = c.reg r

/-- General register `rd` reads `v` (or still 0 if it is register 0), every other one as before (R21). -/
def Cpu.WroteReg (c d : Cpu) (rd : Reg) (v : Word) : Prop :=
  ∀ r, d.reg r = if r = rd ∧ r ≠ 0 then v else c.reg r

/-- Everything outside the current processor and memory is as before: the other processors, the bus, the devices and
the host's side. The count of free values drawn may differ. -/
def State.SameMachine (s t : State) : Prop :=
  t.cfg = s.cfg ∧ t.todo = s.todo ∧ t.done = s.done ∧ t.tod = s.tod ∧ t.intervalTimer = s.intervalTimer ∧
  t.itReq = s.itReq ∧ t.irt = s.irt ∧ t.bootPc = s.bootPc ∧ t.bootSp = s.bootSp ∧ t.powerOffAt = s.powerOffAt ∧
  t.stopped = s.stopped ∧ t.devices = s.devices ∧ t.inputs = s.inputs ∧ t.now = s.now

/-- Every byte of memory reads as before. -/
def State.SameMem (s t : State) : Prop := ∀ a, t.mem.read a = s.mem.read a

/-- Every byte of memory outside the `n` bytes from `a` on reads as before. -/
def State.SameMemOutside (s t : State) (a n : Nat) : Prop :=
  ∀ b, b < a ∨ a + n ≤ b → t.mem.read b = s.mem.read b

/-- The program counter went on as after an instruction that is no branch (R26). -/
def Cpu.Advanced (c d : Cpu) : Prop := d.pc = c.npc ∧ d.npc = c.npc + 4 ∧ d.inDelay = false

/-- An instruction that is no load and no branch has completed: the program counter went on, and the load delay slot of
an earlier load is over (R26, R233). -/
def Cpu.Retired (c d : Cpu) : Prop := c.Advanced d ∧ d.loadDelay = none

/-- The program counter went on as after a branch or jump, to `target` after the delay slot if there is one, else
sequentially (R26, R240); the load delay slot of an earlier load is over (R233). -/
def Cpu.Branched (c d : Cpu) (target : Option Word) : Prop :=
  d.pc = c.npc ∧ d.npc = target.getD (c.npc + 4) ∧ d.inDelay = true ∧ d.loadDelay = none

/-- A register-only instruction: `rd` received `v`, the program counter advanced, and nothing else changed. -/
def State.RegisterResult (s t : State) (rd : Reg) (v : Word) : Prop :=
  s.cpu.WroteReg t.cpu rd v ∧ s.cpu.Retired t.cpu ∧ s.cpu.SameHiLo t.cpu ∧
  s.cpu.SameControl t.cpu ∧ s.SameMem t ∧ s.SameMachine t

/-- HI and LO received values, the program counter advanced, and nothing else changed. -/
def State.HiLoResult (s t : State) (hi lo : Word) : Prop :=
  t.cpu.hi = hi ∧ t.cpu.lo = lo ∧ s.cpu.SameRegs t.cpu ∧ s.cpu.Retired t.cpu ∧ s.cpu.SameControl t.cpu ∧
  s.SameMem t ∧ s.SameMachine t

/-- A load: `rt` received `v` and is in its load delay slot (R233), the program counter advanced, and nothing else
changed. -/
def State.LoadResult (s t : State) (rt : Reg) (v : Word) : Prop :=
  s.cpu.WroteReg t.cpu rt v ∧ s.cpu.Advanced t.cpu ∧ s.cpu.SameHiLo t.cpu ∧ s.cpu.SameControl t.cpu ∧
  (∀ r, t.cpu.src r = t.cpu.reg r ∨ (r = rt ∧ t.cpu.src r = s.cpu.reg r)) ∧ s.SameMem t ∧ s.SameMachine t

/-- A store of `n` bytes from physical address `a` on: the program counter advanced, the other bytes of memory and
everything else are as before. -/
def State.StoreResult (s t : State) (a n : Nat) : Prop :=
  s.cpu.SameRegs t.cpu ∧ s.cpu.Retired t.cpu ∧ s.cpu.SameHiLo t.cpu ∧ s.cpu.SameControl t.cpu ∧
  s.SameMemOutside t a n ∧ s.SameMachine t

/-- A jump or branch: the program counter went to `target` after the delay slot or on in sequence, `link` (if any)
was written to its register, and nothing else changed. -/
def State.BranchResult (s t : State) (target : Option Word) (link : Option (Reg × Word)) : Prop :=
  (match link with
    | none => s.cpu.SameRegs t.cpu
    | some (r, v) => s.cpu.WroteReg t.cpu r v) ∧
  s.cpu.Branched t.cpu target ∧ s.cpu.SameHiLo t.cpu ∧ s.cpu.SameControl t.cpu ∧ s.SameMem t ∧ s.SameMachine t

/-! ## Where an access lands -/

/-- A physical address holds bytes that loads and fetches read: RAM, the BIOS Data Page or a ROM (R95, R96). -/
def State.Readable (s : State) (pa : Nat) : Prop :=
  regionOf s.cfg pa = .ram ∨ regionOf s.cfg pa = .biosData ∨ regionOf s.cfg pa = .rom

/-- A physical address holds bytes that stores write: RAM or the BIOS Data Page (R87, R91). -/
def State.Writable (s : State) (pa : Nat) : Prop := regionOf s.cfg pa = .ram ∨ regionOf s.cfg pa = .biosData

/-- An access of kind `k` and width `w` to logical address `ea` reaches physical address `pa` (R110). -/
def State.Reaches (s : State) (k : Access) (w : Width) (ea : Word) (pa : Nat) : Prop :=
  ∃ p : Word, translateAddr s.cfg s.cpu k w ea = .ok p ∧ p.toNat = pa

/-- Slot `i` of the current processor's TLB is in use and matches page `vpn` under the current ASID (R112). -/
def State.Matches (s : State) (vpn : BitVec 20) (i : TlbIx) : Prop :=
  i.toNat < s.cfg.tlbSize ∧ (s.cpu.tlbGet i).hi.extractLsb' 12 20 = vpn ∧
  ((s.cpu.tlbGet i).lo.getLsbD 8 = true ∨ (s.cpu.tlbGet i).hi.extractLsb' 6 6 = s.cpu.entryHi.extractLsb' 6 6)

/-- An interrupt request on routing entry `e` is pending and seen by processor `p`: with RP = 0 (bit 28) the entry's
low four bits name it (R389), with RP = 1 dynamic routing gave the request to it (R390). -/
def State.RoutedTo (s : State) (e : Nat) (req : IntReq) (p : CpuId) : Prop :=
  req.pending = true ∧
    (if (s.irtEntry e).getLsbD 28 then req.owner = some p else (s.irtEntry e).extractLsb' 0 4 = p)

/-- Word `k` of a device's register is read-only: STATUS, DATA1 of a disk or flash device, and every word of a busy
device, for a terminal the command word of a busy sub-device (R94, R401, R407). -/
def Device.ReadOnlyWord (k : Nat) : Device → Prop
  | .disk d => k = 0 ∨ k = 3 ∨ d.ctl.act ≠ .ready
  | .flash d => k = 0 ∨ k = 3 ∨ d.ctl.act ≠ .ready
  | .network d => k = 0 ∨ d.ctl.act ≠ .ready
  | .printer d => k = 0 ∨ d.ctl.act ≠ .ready
  | .terminal t => k = 0 ∨ k = 2 ∨ (k = 1 ∧ t.recv.act ≠ .ready) ∨ (k = 3 ∧ t.transm.act ≠ .ready)

/-! ## Exception entry -/

/-- The processor took exception `e` in state `s` (R340-R344), said bit field by bit field. A load in its
delay slot is not lost: the handler reads the loaded value (R233). -/
def State.Entered (s t : State) (e : Exc) : Prop :=
  t.cpu.epc = (if s.cpu.inDelay then s.cpu.pc - 4 else s.cpu.pc) ∧
  t.cpu.cause.getLsbD 31 = s.cpu.inDelay ∧
  t.cpu.cause.extractLsb' 2 5 = e.code ∧
  t.cpu.cause.extractLsb' 28 2 = e.copNumber.getD (s.cpu.cause.extractLsb' 28 2) ∧
  t.cpu.badVAddr = e.badAddr.getD s.cpu.badVAddr ∧
  t.cpu.entryHi.extractLsb' 12 20 = (e.pageAddr.getD s.cpu.entryHi).extractLsb' 12 20 ∧
  t.cpu.entryHi.extractLsb' 0 12 = s.cpu.entryHi.extractLsb' 0 12 ∧
  t.cpu.status.extractLsb' 0 6 = s.cpu.status.extractLsb' 0 4 ++ (0 : BitVec 2) ∧
  t.cpu.status.extractLsb' 6 26 = s.cpu.status.extractLsb' 6 26 ∧
  t.cpu.pc = (if s.cpu.status.getLsbD 22 then 0x1FC00100#32 else 0#32) + (if e.isRefill then 0#32 else 0x80#32) ∧
  t.cpu.npc = t.cpu.pc + 4 ∧ t.cpu.inDelay = false ∧ t.cpu.loadDelay = none ∧
  s.cpu.SameRegs t.cpu ∧ s.cpu.SameHiLo t.cpu ∧ s.cpu.SamePrivate t.cpu ∧ s.SameMem t ∧ s.SameMachine t

/-- An instruction or a word completes by taking exception `e`. -/
def State.Takes (s : State) (o : Out) (e : Exc) : Prop := ∃ t, o = .next t ∧ s.Entered t e

/-! ## Invariants -/

/-- The fixed bits of a TLB entry are 0 (R111). -/
def TlbEntry.wf (e : TlbEntry) : Bool := e.hi &&& ~~~entryHiMask == 0 && e.lo &&& ~~~entryLoMask == 0

/-- A processor that the spec can describe: register 0 holds 0 (R21), CU[3:1] (R36) and the undocumented bits of
Cause, Index, EntryHi, EntryLo and the TLB are 0 (R38, R42-R44, R111), Random is in its range (R41), and at most one
inter-processor interrupt per origin is pending (R393). -/
def Cpu.wf (cfg : Config) (c : Cpu) : Bool :=
  c.gpr[0] == 0 && c.status &&& 0xE0000000#32 == 0 && c.cause &&& ~~~causeStored == 0 &&
  c.index &&& ~~~indexMask == 0 && c.entryHi &&& ~~~entryHiMask == 0 && c.entryLo &&& ~~~entryLoMask == 0 &&
  c.tlb.toList.all TlbEntry.wf && decide (1 ≤ c.random.toNat ∧ c.random.toNat < cfg.tlbSize) &&
  decide (c.ipiQueue.map Ipi.origin).Nodup

/-- A device whose medium is in canonical form. -/
def Device.wf : Device → Bool
  | .disk d => d.blocks.wf
  | .flash d => d.blocks.wf
  | .network _ => true
  | .printer _ => true
  | .terminal _ => true

/-- Device `d` may stand at number `n`: its medium is in canonical form, its geometry in range (R474), and `n` is one of
the eight numbers of its class's line (R400). -/
def Device.WfAt (n : Nat) (d : Device) : Prop :=
  d.wf = true ∧ d.geometryOk = true ∧ n < 40 ∧ lineOfDevice n = d.line

/-- Well-formed devices: at most one at each number, each on the line of its class, so at most eight of a class
(R3, R7, R400). -/
def State.DevicesWf (s : State) : Prop :=
  (s.devices.map Prod.fst).Pairwise (· < ·) ∧ ∀ p ∈ s.devices, p.2.WfAt p.1

/-- A well-formed machine: a valid configuration (R9, R10), canonical memories, well-formed processors numbered
0..NCPU-1 (R386), and devices on their lines (R400). -/
def State.WellFormed (s : State) : Prop :=
  s.cfg.valid = true ∧ s.mem.wf = true ∧ (∀ c ∈ s.allCpus, c.wf s.cfg = true) ∧
  s.DevicesWf ∧
  (s.allCpus.map Cpu.prid).Perm ((List.range s.cfg.ncpu).map (BitVec.ofNat 4))

/-! ## Isolation -/

/-- User mode without CP0 (R361). -/
def Cpu.unprivileged (c : Cpu) : Bool := statusKUc c.status && !statusCU0 c.status

end Sys2Proof.Machine
end

