-- ==== Sys2Proof/Certificates/Slice0/Obligations.lean ====
section
/-! DEFINITION. The statements for the provers. "Completes" means that `exec` answers a next state; each instruction
has one such statement for its own effect. `s.cpu.src r` is the value an instruction reads from register `r`; outside a
load delay slot it is the register's value (`SourceReads`). Values the spec leaves open are never named. -/

open Sys2Proof Sys2Proof.Machine

/-! ## Encoding -/

/-- Decoding the word of any instruction gives the instruction back, with every operand (30_encoding R140-R149). -/
def Obligations.DecodeOfEncode : Prop := ∀ i : Instr, decode (encode i) = .instr i

/-- A word that decodes to an instruction is that instruction's word: no bit of it is ignored (R140, R151).
Must-be-zero fields and the order of decoding are the spec's own decisions D17 and D7. -/
def Obligations.EncodeOfDecode : Prop := ∀ (w : Word) (i : Instr), decode w = .instr i → encode i = w

/-- Words written out from the spec's examples decode to the instructions they stand for. -/
def Obligations.DecodeWords : Prop :=
  decode 0x00221820#32 = .instr (.add 3 1 2) ∧ decode 0x2022FFFF#32 = .instr (.addi 2 1 0xFFFF#16) ∧
  decode 0x0022001A#32 = .instr (.div 1 2) ∧ decode 0x8C220004#32 = .instr (.lw 2 1 4) ∧
  decode 0x04310003#32 = .instr (.bgezal 1 3) ∧ decode 0x40826000#32 = .instr (.mtc0 2 12) ∧
  decode 0x0085100B#32 = .instr (.cas 2 4 5)

/-- Every word of coprocessor 1, 2 or 3 raises CpU with that number, in both modes (R152, R271). The spec derives
these words from R36. -/
def Obligations.CoprocessorWordsTrap : Prop :=
  ∀ (s : State) (w : Word),
    (fOp w ∈ [0x11#6, 0x31#6, 0x39#6] → s.Takes (s.execute w) (.copUnusable 1)) ∧
    (fOp w ∈ [0x12#6, 0x32#6, 0x3A#6] → s.Takes (s.execute w) (.copUnusable 2)) ∧
    (fOp w ∈ [0x13#6, 0x33#6, 0x3B#6] → s.Takes (s.execute w) (.copUnusable 3))

/-- Reserved words trap in both modes. A reserved primary opcode, SPECIAL `funct` or REGIMM `rt` raises RI (R144-R146,
R150, R347); LWC0, SWC0 and the COP0 words with a reserved `rs` field or, with bit 25 set, a reserved `funct` raise CpU
with number 0 where CP0 is not usable, and RI where it is (R153, R272). What the COP0 words raise is the spec's own
decision D18, the order of decoding D7. -/
def Obligations.ReservedWordsTrap : Prop :=
  ∀ (s : State) (w : Word),
    ((0x14#6 ≤ fOp w ∧ fOp w ≤ 0x1F#6) ∨ (0x34#6 ≤ fOp w ∧ fOp w ≤ 0x37#6) ∨ 0x3C#6 ≤ fOp w ∨
        fOp w ∈ [0x27#6, 0x2C#6, 0x2D#6, 0x2F#6] ∨
        (fOp w = 0 ∧ (fFunct w ∈ [0x01#6, 0x05#6, 0x0A#6, 0x0E#6, 0x0F#6, 0x28#6, 0x29#6] ∨
          (0x14#6 ≤ fFunct w ∧ fFunct w ≤ 0x17#6) ∨ (0x1C#6 ≤ fFunct w ∧ fFunct w ≤ 0x1F#6) ∨
          0x2C#6 ≤ fFunct w)) ∨
        (fOp w = 1 ∧ fRt w ∉ [0x00#5, 0x01#5, 0x10#5, 0x11#5]) →
      s.Takes (s.execute w) .ri) ∧
    (fOp w = 0x30#6 ∨ fOp w = 0x38#6 ∨
        (fOp w = 0x10#6 ∧ fRs w ≠ 0 ∧ fRs w ≠ 4 ∧ (fRs w).getLsbD 4 = false) ∨
        (fOp w = 0x10#6 ∧ w.getLsbD 25 = true ∧ fFunct w ∉ [0x01#6, 0x02#6, 0x06#6, 0x08#6, 0x10#6, 0x20#6]) →
      s.Takes (s.execute w) (if s.cpu.unprivileged then .copUnusable 0 else .ri))

/-! ## Arithmetic, logic, shifts (40_alu) -/

/-- What an instruction reads from a register: its value or, in the delay slot of a load of that register, possibly
its value before the load (R233). The load delay slot is the spec's own decision D14; the form of its free choice is
the model's, log 11. -/
def Obligations.SourceReads : Prop :=
  ∀ (c : Cpu) (r : Reg),
    (c.loadDelay = none → c.src r = c.reg r) ∧
    (∀ d, c.loadDelay = some d → c.src r = c.reg r ∨ (r = d.reg ∧ c.src r = d.old)) ∧ c.reg 0 = 0

/-- ADD, SUB and ADDI complete when the exact result is a 32-bit two's complement value, and write it (R171, R173,
R181). -/
def Obligations.TrappingArithmeticCompletes : Prop :=
  ∀ (s : State) (rd rs rt : Reg) (imm : Half) (v : Word),
    (v.toInt = (s.cpu.src rs).toInt + (s.cpu.src rt).toInt →
      ∃ t, exec (.add rd rs rt) s = .next t ∧ s.RegisterResult t rd v) ∧
    (v.toInt = (s.cpu.src rs).toInt - (s.cpu.src rt).toInt →
      ∃ t, exec (.sub rd rs rt) s = .next t ∧ s.RegisterResult t rd v) ∧
    (v.toInt = (s.cpu.src rs).toInt + imm.toInt →
      ∃ t, exec (.addi rt rs imm) s = .next t ∧ s.RegisterResult t rt v)

/-- ADD, SUB and ADDI raise OV, and write no register, when no 32-bit two's complement value is the exact result;
also with destination register 0 (R170, R171, R173, R181, R349). -/
def Obligations.OverflowTraps : Prop :=
  ∀ (s : State) (rd rs rt : Reg) (imm : Half),
    ((∀ v : Word, v.toInt ≠ (s.cpu.src rs).toInt + (s.cpu.src rt).toInt) →
      s.Takes (exec (.add rd rs rt) s) .ov) ∧
    ((∀ v : Word, v.toInt ≠ (s.cpu.src rs).toInt - (s.cpu.src rt).toInt) →
      s.Takes (exec (.sub rd rs rt) s) .ov) ∧
    ((∀ v : Word, v.toInt ≠ (s.cpu.src rs).toInt + imm.toInt) → s.Takes (exec (.addi rt rs imm) s) .ov)

/-- ADDU, SUBU and ADDIU complete in every state with the result modulo 2^32 (R172, R174, R182). -/
def Obligations.WrappingArithmeticCompletes : Prop :=
  ∀ (s : State) (rd rs rt : Reg) (imm : Half),
    (∃ t v, exec (.addu rd rs rt) s = .next t ∧ s.RegisterResult t rd v ∧
      v.toNat = ((s.cpu.src rs).toNat + (s.cpu.src rt).toNat) % 2 ^ 32) ∧
    (∃ t v, exec (.subu rd rs rt) s = .next t ∧ s.RegisterResult t rd v ∧
      (v.toNat + (s.cpu.src rt).toNat) % 2 ^ 32 = (s.cpu.src rs).toNat) ∧
    (∃ t v, exec (.addiu rt rs imm) s = .next t ∧ s.RegisterResult t rt v ∧
      (v.toNat : Int) = ((s.cpu.src rs).toNat + imm.toInt) % 2 ^ 32)

/-- AND, OR, XOR, NOR, ANDI, ORI, XORI and LUI complete in every state, bit by bit; the immediates of ANDI, ORI and
XORI have 0 in their upper half (R175-R178, R185-R188). -/
def Obligations.LogicCompletes : Prop :=
  ∀ (s : State) (rd rs rt : Reg) (imm : Half),
    (∃ t v, exec (.and rd rs rt) s = .next t ∧ s.RegisterResult t rd v ∧
      ∀ i < 32, v.getLsbD i = ((s.cpu.src rs).getLsbD i && (s.cpu.src rt).getLsbD i)) ∧
    (∃ t v, exec (.or rd rs rt) s = .next t ∧ s.RegisterResult t rd v ∧
      ∀ i < 32, v.getLsbD i = ((s.cpu.src rs).getLsbD i || (s.cpu.src rt).getLsbD i)) ∧
    (∃ t v, exec (.xor rd rs rt) s = .next t ∧ s.RegisterResult t rd v ∧
      ∀ i < 32, v.getLsbD i = ((s.cpu.src rs).getLsbD i ^^ (s.cpu.src rt).getLsbD i)) ∧
    (∃ t v, exec (.nor rd rs rt) s = .next t ∧ s.RegisterResult t rd v ∧
      ∀ i < 32, v.getLsbD i = !((s.cpu.src rs).getLsbD i || (s.cpu.src rt).getLsbD i)) ∧
    (∃ t v, exec (.andi rt rs imm) s = .next t ∧ s.RegisterResult t rt v ∧
      ∀ i < 32, v.getLsbD i = ((s.cpu.src rs).getLsbD i && imm.getLsbD i)) ∧
    (∃ t v, exec (.ori rt rs imm) s = .next t ∧ s.RegisterResult t rt v ∧
      ∀ i < 32, v.getLsbD i = ((s.cpu.src rs).getLsbD i || imm.getLsbD i)) ∧
    (∃ t v, exec (.xori rt rs imm) s = .next t ∧ s.RegisterResult t rt v ∧
      ∀ i < 32, v.getLsbD i = ((s.cpu.src rs).getLsbD i ^^ imm.getLsbD i)) ∧
    (∃ t v, exec (.lui rt imm) s = .next t ∧ s.RegisterResult t rt v ∧ v.toNat = imm.toNat * 2 ^ 16)

/-- SLT, SLTU, SLTI and SLTIU complete in every state with 1 or 0; the immediate is sign-extended first, also for the
unsigned comparison (R179, R180, R183, R184). -/
def Obligations.ComparisonsComplete : Prop :=
  ∀ (s : State) (rd rs rt : Reg) (imm : Half),
    (∃ t, exec (.slt rd rs rt) s = .next t ∧
      s.RegisterResult t rd (if (s.cpu.src rs).toInt < (s.cpu.src rt).toInt then 1 else 0)) ∧
    (∃ t, exec (.sltu rd rs rt) s = .next t ∧
      s.RegisterResult t rd (if (s.cpu.src rs).toNat < (s.cpu.src rt).toNat then 1 else 0)) ∧
    (∃ t, exec (.slti rt rs imm) s = .next t ∧
      s.RegisterResult t rt (if (s.cpu.src rs).toInt < imm.toInt then 1 else 0)) ∧
    (∃ t, exec (.sltiu rt rs imm) s = .next t ∧
      s.RegisterResult t rt (if ((s.cpu.src rs).toNat : Int) < imm.toInt % 2 ^ 32 then 1 else 0))

/-- The six shifts complete in every state: left is a product modulo 2^32, right a quotient rounded down, of the
unsigned or (SRA, SRAV) the signed value; variable counts are taken modulo 32 (R189-R194). -/
def Obligations.ShiftsComplete : Prop :=
  ∀ (s : State) (rd rs rt : Reg) (sa : BitVec 5),
    (∃ t v, exec (.sll rd rt sa) s = .next t ∧ s.RegisterResult t rd v ∧
      v.toNat = (s.cpu.src rt).toNat * 2 ^ sa.toNat % 2 ^ 32) ∧
    (∃ t v, exec (.srl rd rt sa) s = .next t ∧ s.RegisterResult t rd v ∧
      v.toNat = (s.cpu.src rt).toNat / 2 ^ sa.toNat) ∧
    (∃ t v, exec (.sra rd rt sa) s = .next t ∧ s.RegisterResult t rd v ∧
      v.toInt = (s.cpu.src rt).toInt / 2 ^ sa.toNat) ∧
    (∃ t v, exec (.sllv rd rt rs) s = .next t ∧ s.RegisterResult t rd v ∧
      v.toNat = (s.cpu.src rt).toNat * 2 ^ ((s.cpu.src rs).toNat % 32) % 2 ^ 32) ∧
    (∃ t v, exec (.srlv rd rt rs) s = .next t ∧ s.RegisterResult t rd v ∧
      v.toNat = (s.cpu.src rt).toNat / 2 ^ ((s.cpu.src rs).toNat % 32)) ∧
    (∃ t v, exec (.srav rd rt rs) s = .next t ∧ s.RegisterResult t rd v ∧
      v.toInt = (s.cpu.src rt).toInt / 2 ^ ((s.cpu.src rs).toNat % 32))

/-! ## Multiply, divide, HI and LO (41_muldiv) -/

/-- MULT and MULTU complete in every state: HI and LO together are the exact product (R211, R212). -/
def Obligations.ProductsComplete : Prop :=
  ∀ (s : State) (rs rt : Reg),
    (∃ t hi lo, exec (.mult rs rt) s = .next t ∧ s.HiLoResult t hi lo ∧
      (hi ++ lo : BitVec 64).toInt = (s.cpu.src rs).toInt * (s.cpu.src rt).toInt) ∧
    (∃ t hi lo, exec (.multu rs rt) s = .next t ∧ s.HiLoResult t hi lo ∧
      (hi ++ lo : BitVec 64).toNat = (s.cpu.src rs).toNat * (s.cpu.src rt).toNat)

/-- DIV with a defined quotient, and DIVU with a divisor that is not 0, complete: LO is the quotient and HI the
remainder, for DIV truncated toward zero with the sign of the dividend (R213, R214). -/
def Obligations.QuotientsComplete : Prop :=
  ∀ (s : State) (rs rt : Reg), s.cpu.src rt ≠ 0 →
    (¬ (s.cpu.src rs = 0x80000000#32 ∧ s.cpu.src rt = 0xFFFFFFFF#32) →
      ∃ t hi lo, exec (.div rs rt) s = .next t ∧ s.HiLoResult t hi lo ∧
        (s.cpu.src rs).toInt = lo.toInt * (s.cpu.src rt).toInt + hi.toInt ∧
        hi.toInt.natAbs < (s.cpu.src rt).toInt.natAbs ∧
        (0 < hi.toInt → 0 < (s.cpu.src rs).toInt) ∧ (hi.toInt < 0 → (s.cpu.src rs).toInt < 0)) ∧
    (∃ t hi lo, exec (.divu rs rt) s = .next t ∧ s.HiLoResult t hi lo ∧
      (s.cpu.src rs).toNat = lo.toNat * (s.cpu.src rt).toNat + hi.toNat ∧ hi.toNat < (s.cpu.src rt).toNat)

/-- A division without a defined result raises nothing: it completes, and only HI and LO may hold anything (R210,
R213, R214, D15). That nothing is raised is the spec's own decision D15; the free values are the model's form, log 12.
-/
def Obligations.UndefinedDivisionCompletes : Prop :=
  ∀ (s : State) (rs rt : Reg),
    (s.cpu.src rt = 0 ∨ (s.cpu.src rs = 0x80000000#32 ∧ s.cpu.src rt = 0xFFFFFFFF#32) →
      ∃ t hi lo, exec (.div rs rt) s = .next t ∧ s.HiLoResult t hi lo) ∧
    (s.cpu.src rt = 0 → ∃ t hi lo, exec (.divu rs rt) s = .next t ∧ s.HiLoResult t hi lo)

/-- MFHI, MFLO, MTHI and MTLO complete in every state (R215-R218). -/
def Obligations.HiLoMovesComplete : Prop :=
  ∀ (s : State) (r : Reg),
    (∃ t, exec (.mfhi r) s = .next t ∧ s.RegisterResult t r s.cpu.hi) ∧
    (∃ t, exec (.mflo r) s = .next t ∧ s.RegisterResult t r s.cpu.lo) ∧
    (∃ t, exec (.mthi r) s = .next t ∧ s.HiLoResult t (s.cpu.src r) s.cpu.lo) ∧
    (∃ t, exec (.mtlo r) s = .next t ∧ s.HiLoResult t s.cpu.hi (s.cpu.src r))

/-! ## Memory, loads and stores (20_memory, 42_loadstore) -/

/-- The byte order of words and halfwords in memory, and what a byte or halfword of a word just written reads (R100,
R101). That both orders are modelled is the spec's own decision D1; the halves are derived from it. -/
def Obligations.ByteOrder : Prop :=
  ∀ (m : Memory) (a : Nat) (v : Word),
    (∀ k < 4, (m.writeWord false a v).read (a + k) = v.extractLsb' (8 * k) 8) ∧
    (∀ k < 4, (m.writeWord true a v).read (a + k) = v.extractLsb' (8 * (3 - k)) 8) ∧
    (∀ big, (m.writeWord big a v).readWord big a = v) ∧
    (m.writeWord false a v).readHalf false a = v.extractLsb' 0 16 ∧
    (m.writeWord false a v).readHalf false (a + 2) = v.extractLsb' 16 16 ∧
    (m.writeWord true a v).readHalf true a = v.extractLsb' 16 16 ∧
    (m.writeWord true a v).readHalf true (a + 2) = v.extractLsb' 0 16

/-- LB, LBU, LH, LHU and LW complete when their address reaches memory, and write the extended value (R223-R227). -/
def Obligations.LoadsComplete : Prop :=
  ∀ (s : State) (rt base : Reg) (off : Half) (pa : Nat), s.Readable pa →
    (s.Reaches .load .byte (s.cpu.src base + off.signExtend 32) pa →
      (∃ t, exec (.lb rt base off) s = .next t ∧ s.LoadResult t rt ((s.mem.read pa).signExtend 32)) ∧
      (∃ t, exec (.lbu rt base off) s = .next t ∧ s.LoadResult t rt ((s.mem.read pa).setWidth 32))) ∧
    (s.Reaches .load .half (s.cpu.src base + off.signExtend 32) pa →
      (∃ t, exec (.lh rt base off) s = .next t ∧
        s.LoadResult t rt ((s.mem.readHalf s.cfg.bigEndian pa).signExtend 32)) ∧
      (∃ t, exec (.lhu rt base off) s = .next t ∧
        s.LoadResult t rt ((s.mem.readHalf s.cfg.bigEndian pa).setWidth 32))) ∧
    (s.Reaches .load .word (s.cpu.src base + off.signExtend 32) pa →
      ∃ t, exec (.lw rt base off) s = .next t ∧ s.LoadResult t rt (s.mem.readWord s.cfg.bigEndian pa))

/-- LWL and LWR complete when their address reaches memory, whatever its low bits, and merge the bytes of the aligned
word around it into the register, byte lane by byte lane (R228, R229). -/
def Obligations.UnalignedLoadsComplete : Prop :=
  ∀ (s : State) (rt base : Reg) (off : Half) (pa : Nat),
    s.Reaches .load .byte (s.cpu.src base + off.signExtend 32) pa → s.Readable (pa - pa % 4) →
    (∃ t v, exec (.lwl rt base off) s = .next t ∧ s.LoadResult t rt v ∧
      let k := if s.cfg.bigEndian then pa % 4 else 3 - pa % 4
      ∀ j < 4, v.extractLsb' (8 * j) 8 =
        if k ≤ j then (s.mem.readWord s.cfg.bigEndian (pa - pa % 4)).extractLsb' (8 * (j - k)) 8
        else (s.cpu.reg rt).extractLsb' (8 * j) 8) ∧
    (∃ t v, exec (.lwr rt base off) s = .next t ∧ s.LoadResult t rt v ∧
      let m := if s.cfg.bigEndian then 3 - pa % 4 else pa % 4
      ∀ j < 4, v.extractLsb' (8 * j) 8 =
        if j + m < 4 then (s.mem.readWord s.cfg.bigEndian (pa - pa % 4)).extractLsb' (8 * (j + m)) 8
        else (s.cpu.reg rt).extractLsb' (8 * j) 8)

/-- SB, SH and SW complete when their address reaches RAM or the BIOS Data Page: the bytes read back, and nothing else
changes (R230-R232, R104). -/
def Obligations.StoresComplete : Prop :=
  ∀ (s : State) (rt base : Reg) (off : Half) (pa : Nat), s.Writable pa →
    (s.Reaches .store .byte (s.cpu.src base + off.signExtend 32) pa →
      ∃ t, exec (.sb rt base off) s = .next t ∧ s.StoreResult t pa 1 ∧
        t.mem.read pa = (s.cpu.src rt).extractLsb' 0 8) ∧
    (s.Reaches .store .half (s.cpu.src base + off.signExtend 32) pa →
      ∃ t, exec (.sh rt base off) s = .next t ∧ s.StoreResult t pa 2 ∧
        t.mem.readHalf s.cfg.bigEndian pa = (s.cpu.src rt).extractLsb' 0 16) ∧
    (s.Reaches .store .word (s.cpu.src base + off.signExtend 32) pa →
      ∃ t, exec (.sw rt base off) s = .next t ∧ s.StoreResult t pa 4 ∧
        t.mem.readWord s.cfg.bigEndian pa = s.cpu.src rt)

/-- SWL and SWR complete when their address reaches RAM or the BIOS Data Page, whatever its low bits: byte lane by
byte lane of the aligned word around it, the stored lanes hold the register's bytes and the others are as before
(R235, R236). -/
def Obligations.UnalignedStoresComplete : Prop :=
  ∀ (s : State) (rt base : Reg) (off : Half) (pa : Nat),
    s.Reaches .store .byte (s.cpu.src base + off.signExtend 32) pa → s.Writable (pa - pa % 4) →
    (∃ t, exec (.swl rt base off) s = .next t ∧ s.StoreResult t (pa - pa % 4) 4 ∧
      let k := if s.cfg.bigEndian then pa % 4 else 3 - pa % 4
      ∀ j < 4, (t.mem.readWord s.cfg.bigEndian (pa - pa % 4)).extractLsb' (8 * j) 8 =
        if j + k < 4 then (s.cpu.src rt).extractLsb' (8 * (j + k)) 8
        else (s.mem.readWord s.cfg.bigEndian (pa - pa % 4)).extractLsb' (8 * j) 8) ∧
    (∃ t, exec (.swr rt base off) s = .next t ∧ s.StoreResult t (pa - pa % 4) 4 ∧
      let m := if s.cfg.bigEndian then 3 - pa % 4 else pa % 4
      ∀ j < 4, (t.mem.readWord s.cfg.bigEndian (pa - pa % 4)).extractLsb' (8 * j) 8 =
        if m ≤ j then (s.cpu.src rt).extractLsb' (8 * (j - m)) 8
        else (s.mem.readWord s.cfg.bigEndian (pa - pa % 4)).extractLsb' (8 * j) 8)

/-- Loads have no side effect: a load that answers a next state wrote its register or took an exception, and changed
nothing else, wherever it read (R105). The spec derives this from R374 and R408. -/
def Obligations.LoadsHaveNoSideEffect : Prop :=
  ∀ (s t : State) (rt base : Reg) (off : Half) (i : Instr),
    i ∈ [.lb rt base off, .lbu rt base off, .lh rt base off, .lhu rt base off, .lw rt base off, .lwl rt base off,
      .lwr rt base off] →
    exec i s = .next t → (∃ v, s.LoadResult t rt v) ∨ ∃ e, s.Entered t e

/-- LH, LHU, LW, SH, SW and CAS, and an instruction fetch, on an address that is not aligned for their width raise the
Address Error with that address, before anything else, in every state; the accesses of bytes, which LB, LBU, SB, LWL,
LWR, SWL and SWR make, never do in kernel mode (R102). -/
def Obligations.MisalignedAccessTraps : Prop :=
  ∀ (s : State) (rt base : Reg) (off : Half) (ea : Word), ea = s.cpu.src base + off.signExtend 32 →
    (ea.toNat % 2 ≠ 0 →
      s.Takes (exec (.lh rt base off) s) (.addressError .load ea) ∧
      s.Takes (exec (.lhu rt base off) s) (.addressError .load ea) ∧
      s.Takes (exec (.sh rt base off) s) (.addressError .store ea)) ∧
    (ea.toNat % 4 ≠ 0 →
      s.Takes (exec (.lw rt base off) s) (.addressError .load ea) ∧
      s.Takes (exec (.sw rt base off) s) (.addressError .store ea)) ∧
    (∀ rd rs, (s.cpu.src rs).toNat % 4 ≠ 0 →
      s.Takes (exec (.cas rd rs rt) s) (.addressError .store (s.cpu.src rs))) ∧
    (s.cpu.pc.toNat % 4 ≠ 0 → s.stopped = false → s.cpu.power = .running → s.intAccepted = false →
      step s = .next (s.enter (.addressError .fetch s.cpu.pc)).endTurn) ∧
    (s.cpu.status.getLsbD 1 = false → ∀ k va j vb,
      translateAddr s.cfg s.cpu k .byte va ≠ .error (.addressError j vb))

/-- In user mode every load, store, CAS and instruction fetch below 0x8000.0000 raises an Address Error, whatever the TLB
floor is and whether or not the address exists; in kernel mode none does, but for its alignment (R82). -/
def Obligations.UserSegmentTraps : Prop :=
  ∀ (s : State) (rt base : Reg) (off : Half) (ea : Word), ea = s.cpu.src base + off.signExtend 32 →
    (s.cpu.status.getLsbD 1 = true → ea.toNat < 0x80000000 →
      (∀ i ∈ [Instr.lb rt base off, .lbu rt base off, .lh rt base off, .lhu rt base off, .lw rt base off,
          .lwl rt base off, .lwr rt base off], s.Takes (exec i s) (.addressError .load ea)) ∧
      (∀ i ∈ [Instr.sb rt base off, .sh rt base off, .sw rt base off, .swl rt base off, .swr rt base off],
        s.Takes (exec i s) (.addressError .store ea)) ∧
      (∀ rd, off = 0 → s.Takes (exec (.cas rd base rt) s) (.addressError .store ea))) ∧
    (s.cpu.status.getLsbD 1 = true → s.cpu.pc.toNat < 0x80000000 → s.stopped = false → s.cpu.power = .running →
      s.intAccepted = false → step s = .next (s.enter (.addressError .fetch s.cpu.pc)).endTurn) ∧
    (s.cpu.status.getLsbD 1 = false → ∀ k va, translateAddr s.cfg s.cpu k .byte va ≠ .error (.addressError k va))

/-- A data access that the translation refuses raises that exception; one that reaches an undefined or non-existent
physical address, and a store to a ROM, raise DBE with the logical address; and nothing else changes (R92, R94, R110,
R337, R345). The unaligned accesses translate their address as a byte and reach the aligned word around it (R228). Under
every configuration in the ranges of R9 and R10, the physical map gives each address its content: the execution ROM below
EXECTOP, the BIOS Data Page, the bootstrap ROM below BOOTTOP, RAM below RAMTOP, and nothing in the gaps and from RAMTOP
on (R85, R86, R87, R90, R91, R92). ROM stores, the logical address in BadVAddr and that the ROMs are accessible are the
spec's own decisions D22, D25 and D49. -/
def Obligations.DataAccessTraps : Prop :=
  ∀ (s : State) (rt base : Reg) (off : Half) (pa : Nat) (ea : Word), ea = s.cpu.src base + off.signExtend 32 →
    (∀ e, translateAddr s.cfg s.cpu .load .byte ea = .error e →
      ∀ i ∈ [Instr.lb rt base off, .lbu rt base off, .lwl rt base off, .lwr rt base off], s.Takes (exec i s) e) ∧
    (∀ e, translateAddr s.cfg s.cpu .load .half ea = .error e →
      ∀ i ∈ [Instr.lh rt base off, .lhu rt base off], s.Takes (exec i s) e) ∧
    (∀ e, translateAddr s.cfg s.cpu .load .word ea = .error e → s.Takes (exec (.lw rt base off) s) e) ∧
    (∀ e, translateAddr s.cfg s.cpu .store .byte ea = .error e →
      ∀ i ∈ [Instr.sb rt base off, .swl rt base off, .swr rt base off], s.Takes (exec i s) e) ∧
    (∀ e, translateAddr s.cfg s.cpu .store .half ea = .error e → s.Takes (exec (.sh rt base off) s) e) ∧
    (∀ e, translateAddr s.cfg s.cpu .store .word ea = .error e →
      s.Takes (exec (.sw rt base off) s) e ∧ (∀ rd, off = 0 → s.Takes (exec (.cas rd base rt) s) e)) ∧
    (s.Reaches .load .byte ea pa →
      (regionOf s.cfg pa = .undefined →
        ∀ i ∈ [Instr.lb rt base off, .lbu rt base off], s.Takes (exec i s) (.busError .load ea)) ∧
      (regionOf s.cfg (pa - pa % 4) = .undefined →
        ∀ i ∈ [Instr.lwl rt base off, .lwr rt base off], s.Takes (exec i s) (.busError .load ea))) ∧
    (s.Reaches .load .half ea pa → regionOf s.cfg pa = .undefined →
      ∀ i ∈ [Instr.lh rt base off, .lhu rt base off], s.Takes (exec i s) (.busError .load ea)) ∧
    (s.Reaches .load .word ea pa → regionOf s.cfg pa = .undefined →
      s.Takes (exec (.lw rt base off) s) (.busError .load ea)) ∧
    (s.Reaches .store .byte ea pa →
      (regionOf s.cfg pa ∈ [.undefined, .rom] → s.Takes (exec (.sb rt base off) s) (.busError .store ea)) ∧
      (regionOf s.cfg (pa - pa % 4) ∈ [.undefined, .rom] →
        ∀ i ∈ [Instr.swl rt base off, .swr rt base off], s.Takes (exec i s) (.busError .store ea))) ∧
    (s.Reaches .store .half ea pa → regionOf s.cfg pa ∈ [.undefined, .rom] →
      s.Takes (exec (.sh rt base off) s) (.busError .store ea)) ∧
    (s.Reaches .store .word ea pa → regionOf s.cfg pa ∈ [.undefined, .rom] →
      s.Takes (exec (.sw rt base off) s) (.busError .store ea)) ∧
    (s.cfg.valid = true → ∀ a : Nat,
      (regionOf s.cfg a = .ram ↔ 0x20000000 ≤ a ∧ a < 0x20000000 + 4096 * s.cfg.ramFrames) ∧
      (regionOf s.cfg a = .biosData ↔ 0x0FFFF000 ≤ a ∧ a ≤ 0x0FFFFFFF) ∧
      (regionOf s.cfg a = .rom ↔ a < s.cfg.execSize ∨ (0x1FC00000 ≤ a ∧ a < 0x1FC00000 + s.cfg.bootSize)) ∧
      (regionOf s.cfg a = .undefined ↔
        (s.cfg.execSize ≤ a ∧ a ≤ 0x0FFFEFFF) ∨
        (0x100002D4 ≤ a ∧ a < s.cfg.irtBase) ∨
        (s.cfg.irtBase + 0xC0 ≤ a ∧ a ≤ 0x100003FF) ∨
        (0x10000414 ≤ a ∧ a ≤ 0x100004FF) ∨
        (0x10000518 ≤ a ∧ a ≤ 0x1FBFFFFF) ∨
        (0x1FC00000 + s.cfg.bootSize ≤ a ∧ a ≤ 0x1FFFFFFF) ∨
        0x20000000 + 4096 * s.cfg.ramFrames ≤ a))

/-- Byte, halfword and unaligned loads and stores that reach a register area are refused by name (R95, D24). The
refusal is the spec's own decision D24, log 21. -/
def Obligations.NarrowRegisterAccessStops : Prop :=
  ∀ (s : State) (rt base : Reg) (off : Half) (pa : Nat) (r : MmReg) (ea : Word),
    ea = s.cpu.src base + off.signExtend 32 →
    (regionOf s.cfg pa = .register r →
      (s.Reaches .load .byte ea pa → ∀ i ∈ [Instr.lb rt base off, .lbu rt base off],
        exec i s = .refused .narrowRegisterAccess) ∧
      (s.Reaches .load .half ea pa → ∀ i ∈ [Instr.lh rt base off, .lhu rt base off],
        exec i s = .refused .narrowRegisterAccess) ∧
      (s.Reaches .store .byte ea pa → exec (.sb rt base off) s = .refused .narrowRegisterAccess) ∧
      (s.Reaches .store .half ea pa → exec (.sh rt base off) s = .refused .narrowRegisterAccess)) ∧
    (regionOf s.cfg (pa - pa % 4) = .register r →
      (s.Reaches .load .byte ea pa → ∀ i ∈ [Instr.lwl rt base off, .lwr rt base off],
        exec i s = .refused .narrowRegisterAccess) ∧
      (s.Reaches .store .byte ea pa → ∀ i ∈ [Instr.swl rt base off, .swr rt base off],
        exec i s = .refused .narrowRegisterAccess))

/-! ## Memory-mapped registers (60_exceptions, 61_devices) -/

/-- LW of the Bus Register Area and of the processor's own registers, at their addresses in kernel mode with the TLB
off, reads what the spec says they hold; the Inbox is stated where its queue is not empty, and reads the oldest
interrupt's origin above its message (R374, R385, R386, R391, R394, R396). The value with the TLB off is the spec's own
decision D12. -/
def Obligations.BusRegistersRead : Prop :=
  ∀ (s : State) (rt base : Reg) (off : Half), s.cfg.valid = true → s.cpu.status.getLsbD 1 = false →
    s.cfg.tlbFloor = .vmOff →
    (∀ i rest, s.cpu.ipiQueue = i :: rest → s.cpu.src base + off.signExtend 32 = 0x10000400#32 →
      ∃ t v, exec (.lw rt base off) s = .next t ∧ s.LoadResult t rt v ∧
        v.toNat = 256 * i.origin.toNat + i.message.toNat) ∧
    ∀ p ∈ [(0x10000000#32, 0x20000000#32), (0x10000004#32, BitVec.ofNat 32 (4096 * s.cfg.ramFrames)),
        (0x10000008#32, 0#32), (0x1000000C#32, BitVec.ofNat 32 s.cfg.execSize), (0x10000010#32, 0x1FC00000#32),
        (0x10000014#32, BitVec.ofNat 32 s.cfg.bootSize), (0x10000018#32, (s.tod >>> 32).setWidth 32),
        (0x1000001C#32, s.tod.setWidth 32), (0x10000020#32, s.intervalTimer),
        (0x10000024#32, BitVec.ofNat 32 s.cfg.timeScale), (0x10000028#32, s.cfg.vmOffValue),
        (0x10000408#32, s.cpu.tpr.setWidth 32), (0x1000040C#32, s.cpu.biosReserved1),
        (0x10000410#32, s.cpu.biosReserved2), (0x10000500#32, BitVec.ofNat 32 s.cfg.ncpu),
        (0x10000508#32, s.bootPc), (0x1000050C#32, s.bootSp)],
      s.cpu.src base + off.signExtend 32 = p.1 →
      ∃ t, exec (.lw rt base off) s = .next t ∧ s.LoadResult t rt p.2

/-- SW to a read-only register completes and changes nothing: the read-only words of the Bus Register Area, both bit maps,
NCPUs, and of the device registers every word of an uninstalled device, the STATUS words, DATA1 of a disk or flash device
and the words of a busy device (R94, R375, R386, R405, R407). That such stores are ignored is the spec's own decision
D22. -/
def Obligations.ReadOnlyRegistersIgnoreStores : Prop :=
  ∀ (s : State) (rt base : Reg) (off : Half) (ea : Word), s.cfg.valid = true →
    s.cpu.status.getLsbD 1 = false → s.cfg.tlbFloor = .vmOff → ea = s.cpu.src base + off.signExtend 32 →
    ea.toNat % 4 = 0 →
    (0x10000000 ≤ ea.toNat ∧ ea.toNat < 0x10000054 ∧ ea.toNat ≠ 0x10000020) ∨ ea.toNat = 0x10000500 ∨
      (∃ n k, n < 40 ∧ k < 4 ∧ ea.toNat = 0x10000054 + 16 * n + 4 * k ∧
        ∀ d, s.device n = some d → d.ReadOnlyWord k) →
    ∃ t, exec (.sw rt base off) s = .next t ∧ s.StoreResult t 0 0

/-- SW to the Interval Timer, BootPC, BootSP, TPR, Inbox, BIOSReserved1 and BIOSReserved2 completes with the register's
effect and no other (R371, R385, R391, R394, R396): a new count and no pending interrupt; the word; the low four bits; the
oldest pending IPI removed. -/
def Obligations.BusRegistersWrite : Prop :=
  ∀ (s : State) (rt base : Reg) (off : Half) (ea v : Word), s.cfg.valid = true →
    s.cpu.status.getLsbD 1 = false → s.cfg.tlbFloor = .vmOff → ea = s.cpu.src base + off.signExtend 32 →
    v = s.cpu.src rt → ea ∈ [0x10000020#32, 0x10000508#32, 0x1000050C#32, 0x10000408#32, 0x10000400#32,
      0x1000040C#32, 0x10000410#32] →
    ∃ t, exec (.sw rt base off) s = .next t ∧ s.cpu.SameRegs t.cpu ∧ s.cpu.SameHiLo t.cpu ∧ s.cpu.Retired t.cpu ∧
      s.SameMem t ∧
      (ea = 0x10000020#32 → t.intervalTimer = v ∧ t.itReq.pending = false ∧ s.cpu.SameControl t.cpu ∧
        s.SameMachine { t with intervalTimer := s.intervalTimer, itReq := s.itReq }) ∧
      (ea = 0x10000508#32 → t.bootPc = v ∧ s.cpu.SameControl t.cpu ∧ s.SameMachine { t with bootPc := s.bootPc }) ∧
      (ea = 0x1000050C#32 → t.bootSp = v ∧ s.cpu.SameControl t.cpu ∧ s.SameMachine { t with bootSp := s.bootSp }) ∧
      (ea = 0x10000408#32 → t.cpu.tpr = v.extractLsb' 0 4 ∧ s.cpu.SameControl { t.cpu with tpr := s.cpu.tpr } ∧
        s.SameMachine t) ∧
      (ea = 0x10000400#32 → t.cpu.ipiQueue = s.cpu.ipiQueue.drop 1 ∧
        s.cpu.SameControl { t.cpu with ipiQueue := s.cpu.ipiQueue } ∧ s.SameMachine t) ∧
      (ea = 0x1000040C#32 → t.cpu.biosReserved1 = v ∧
        s.cpu.SameControl { t.cpu with biosReserved1 := s.cpu.biosReserved1 } ∧ s.SameMachine t) ∧
      (ea = 0x10000410#32 → t.cpu.biosReserved2 = v ∧
        s.cpu.SameControl { t.cpu with biosReserved2 := s.cpu.biosReserved2 } ∧ s.SameMachine t)

/-- SW to the Outbox completes: the message joins the end of the queue of every existing processor that the Recipients
field names and that has none from this origin, and of no other; nothing else changes but the note that an interrupt
was signalled (R393). The handling of non-existing recipients and of the sender itself is the spec's own decision D44.
-/
def Obligations.OutboxDelivers : Prop :=
  ∀ (s : State) (rt base : Reg) (off : Half), s.cfg.valid = true →
    s.cpu.status.getLsbD 1 = false → s.cfg.tlbFloor = .vmOff →
    s.cpu.src base + off.signExtend 32 = 0x10000404#32 →
    ∃ t, exec (.sw rt base off) s = .next t ∧ s.cpu.SameRegs t.cpu ∧ s.cpu.SameHiLo t.cpu ∧ s.cpu.Retired t.cpu ∧
      s.SameMem t ∧
      t.allCpus.map (fun c => (c.prid, c.ipiQueue)) = s.allCpus.map (fun c => (c.prid,
        if (s.cpu.src rt).getLsbD (8 + c.prid.toNat) = true ∧ c.prid.toNat < s.cfg.ncpu ∧
          s.cpu.prid ∉ c.ipiQueue.map Ipi.origin
        then c.ipiQueue ++ [{ origin := s.cpu.prid, message := (s.cpu.src rt).extractLsb' 0 8 }] else c.ipiQueue)) ∧
      (t.todo ++ t.done).map (fun c => { c with ipiQueue := [], signalled := false }) =
        (s.todo ++ s.done).map (fun c => { c with ipiQueue := [], signalled := false }) ∧
      s.cpu.SameControl { t.cpu with ipiQueue := s.cpu.ipiQueue, signalled := s.cpu.signalled } ∧
      s.SameMachine { t with todo := s.todo, done := s.done }

/-- SW to a register of a printer that is executing a command completes and changes nothing (R407); SW of an operation
(a command code of 2 or more) to the COMMAND of one that is not starts it: its interrupt is dropped, its status is Busy,
and it completes in a later tick (R408, R410); one with a set bit above the code is refused by name. That it completes in
a later tick and not in that of the command is the spec's own decision D33, log 29; the refusal is D50, log 22. -/
def Obligations.PrinterCommands : Prop :=
  ∀ (s : State) (rt base : Reg) (off : Half) (n k : Nat) (d : Printer), s.cfg.valid = true →
    s.cpu.status.getLsbD 1 = false → s.cfg.tlbFloor = .vmOff → 24 ≤ n → n < 32 → k < 4 →
    s.cpu.src base + off.signExtend 32 = BitVec.ofNat 32 (0x10000054 + 16 * n + 4 * k) →
    s.device n = some (.printer d) →
    (d.ctl.act ≠ .ready → ∃ t, exec (.sw rt base off) s = .next t ∧ s.StoreResult t 0 0) ∧
    (d.ctl.act = .ready → k = 1 → 256 ≤ (s.cpu.src rt).toNat →
      exec (.sw rt base off) s = .refused .commandUpperBits) ∧
    (d.ctl.act = .ready → k = 1 → 2 ≤ (s.cpu.src rt).toNat → (s.cpu.src rt).toNat < 256 →
      ∃ t d' when, exec (.sw rt base off) s = .next t ∧ t.device n = some (.printer d') ∧
        d'.ctl.command = s.cpu.src rt ∧ d'.ctl.status = 3 ∧ d'.ctl.req.pending = false ∧
        d'.ctl.act = .busy s.now when ∧ s.now < when ∧ d'.data0 = d.data0 ∧ d'.log = d.log ∧
        (∀ m ≠ n, t.device m = s.device m) ∧ s.cpu.SameRegs t.cpu ∧ s.cpu.SameHiLo t.cpu ∧ s.cpu.Retired t.cpu ∧
        s.cpu.SameControl t.cpu ∧ s.SameMem t ∧ s.SameMachine { t with devices := s.devices })

/-! ## CAS (45_cas) -/

/-- CAS completes wherever its address is accepted: in RAM it swaps when the word equals `rt` and else stores nothing;
outside RAM it fails and changes nothing; `rd` receives the flag (R290, R292). That CAS outside RAM fails without an
exception is the spec's own decision D38. -/
def Obligations.CasCompletes : Prop :=
  ∀ (s : State) (rd rs rt : Reg) (pa : Nat), s.Reaches .store .word (s.cpu.src rs) pa →
    (regionOf s.cfg pa = .ram → s.mem.readWord s.cfg.bigEndian pa = s.cpu.src rt →
      ∃ t, exec (.cas rd rs rt) s = .next t ∧ s.cpu.WroteReg t.cpu rd 1 ∧
        t.mem.readWord s.cfg.bigEndian pa = s.cpu.src rd ∧ s.SameMemOutside t pa 4 ∧ s.cpu.Retired t.cpu ∧
        s.cpu.SameHiLo t.cpu ∧ s.cpu.SameControl t.cpu ∧ s.SameMachine t) ∧
    (regionOf s.cfg pa ≠ .ram ∨ s.mem.readWord s.cfg.bigEndian pa ≠ s.cpu.src rt →
      ∃ t, exec (.cas rd rs rt) s = .next t ∧ s.RegisterResult t rd 0)

/-! ## Jumps and branches (43_branch_jump) -/

/-- J, JAL, JR and JALR (with rs ≠ rd) complete outside a delay slot: the next instruction is in their delay slot and
the one after it at the target; JAL and JALR link to the instruction after the delay slot (R240-R245). -/
def Obligations.JumpsComplete : Prop :=
  ∀ (s : State) (target : BitVec 26) (rd rs : Reg) (tgt : Word), s.cpu.inDelay = false →
    tgt = (s.cpu.pc + 4) &&& 0xF0000000#32 ||| (target.setWidth 32 <<< 2) →
    (∃ t, exec (.j target) s = .next t ∧ s.BranchResult t (some tgt) none) ∧
    (∃ t, exec (.jal target) s = .next t ∧ s.BranchResult t (some tgt) (some (31, s.cpu.pc + 8))) ∧
    (∃ t, exec (.jr rs) s = .next t ∧ s.BranchResult t (some (s.cpu.src rs)) none) ∧
    (rs ≠ rd → ∃ t, exec (.jalr rd rs) s = .next t ∧
      s.BranchResult t (some (s.cpu.src rs)) (some (rd, s.cpu.pc + 8)))

/-- The conditional branches complete outside a delay slot, taken or not as the comparison says (R246-R251). -/
def Obligations.BranchesComplete : Prop :=
  ∀ (s : State) (rs rt : Reg) (off : Half) (tgt : Word), s.cpu.inDelay = false →
    tgt = s.cpu.pc + 4 + 4 * off.signExtend 32 →
    (∃ t, exec (.beq rs rt off) s = .next t ∧
      s.BranchResult t (if s.cpu.src rs = s.cpu.src rt then some tgt else none) none) ∧
    (∃ t, exec (.bne rs rt off) s = .next t ∧
      s.BranchResult t (if s.cpu.src rs = s.cpu.src rt then none else some tgt) none) ∧
    (∃ t, exec (.blez rs off) s = .next t ∧
      s.BranchResult t (if (s.cpu.src rs).toInt ≤ 0 then some tgt else none) none) ∧
    (∃ t, exec (.bgtz rs off) s = .next t ∧
      s.BranchResult t (if 0 < (s.cpu.src rs).toInt then some tgt else none) none) ∧
    (∃ t, exec (.bltz rs off) s = .next t ∧
      s.BranchResult t (if (s.cpu.src rs).toInt < 0 then some tgt else none) none) ∧
    (∃ t, exec (.bgez rs off) s = .next t ∧
      s.BranchResult t (if 0 ≤ (s.cpu.src rs).toInt then some tgt else none) none)

/-- BLTZAL and BGEZAL with rs ≠ 31 complete outside a delay slot, and link whether or not they are taken (R252,
R253). -/
def Obligations.LinkingBranchesComplete : Prop :=
  ∀ (s : State) (rs : Reg) (off : Half) (tgt : Word), s.cpu.inDelay = false → rs ≠ 31 →
    tgt = s.cpu.pc + 4 + 4 * off.signExtend 32 →
    (∃ t, exec (.bltzal rs off) s = .next t ∧
      s.BranchResult t (if (s.cpu.src rs).toInt < 0 then some tgt else none) (some (31, s.cpu.pc + 8))) ∧
    (∃ t, exec (.bgezal rs off) s = .next t ∧
      s.BranchResult t (if 0 ≤ (s.cpu.src rs).toInt then some tgt else none) (some (31, s.cpu.pc + 8)))

/-- The forms that the spec leaves outside the machine are refused by name: every jump and branch in a delay slot,
JALR with rs = rd, BLTZAL and BGEZAL with rs = 31, TLBR and TLBWI with an Index at or beyond TLBSIZE, and a word
outside the COP0 space with a non-zero must-be-zero field (R151, R245, R252-R254, R266, D11, D16, D17, D28). The
refusals are the spec's own decisions, log 18, log 19 and log 20. -/
def Obligations.ForbiddenFormsStop : Prop :=
  ∀ (s : State) (target : BitVec 26) (rd rs rt : Reg) (off : Half),
    (s.cpu.inDelay = true →
      ∀ i ∈ [Instr.j target, .jal target, .jr rs, .jalr rd rs, .beq rs rt off, .bne rs rt off, .blez rs off,
        .bgtz rs off, .bltz rs off, .bgez rs off, .bltzal rs off, .bgezal rs off],
      exec i s = .refused .branchInDelaySlot) ∧
    (s.cpu.inDelay = false → ∀ i ∈ [Instr.jalr rs rs, .bltzal 31 off, .bgezal 31 off],
      exec i s = .refused .notRestartable) ∧
    (s.cpu.unprivileged = false → s.cfg.tlbSize ≤ (s.cpu.index.extractLsb' 8 6).toNat →
      ∀ i ∈ [Instr.tlbr, .tlbwi], exec i s = .refused .tlbIndexBeyondSize) ∧
    (∀ w : Word,
      (fOp w = 0 ∧ fFunct w ∈ [0x04#6, 0x06, 0x07, 0x0B, 0x20, 0x21, 0x22, 0x23, 0x24, 0x25, 0x26, 0x27, 0x2A, 0x2B] ∧
        fSa w ≠ 0) ∨
      (fOp w = 0 ∧ fFunct w ∈ [0x00#6, 0x02, 0x03] ∧ fRs w ≠ 0) ∨
      (fOp w = 0 ∧ fFunct w ∈ [0x08#6, 0x11, 0x13] ∧ (fRt w ≠ 0 ∨ fRd w ≠ 0 ∨ fSa w ≠ 0)) ∨
      (fOp w = 0 ∧ fFunct w = 0x09#6 ∧ (fRt w ≠ 0 ∨ fSa w ≠ 0)) ∨
      (fOp w = 0 ∧ fFunct w ∈ [0x10#6, 0x12] ∧ (fRs w ≠ 0 ∨ fRt w ≠ 0 ∨ fSa w ≠ 0)) ∨
      (fOp w = 0 ∧ fFunct w ∈ [0x18#6, 0x19, 0x1A, 0x1B] ∧ (fRd w ≠ 0 ∨ fSa w ≠ 0)) ∨
      (fOp w ∈ [0x06#6, 0x07] ∧ fRt w ≠ 0) ∨ (fOp w = 0x0F#6 ∧ fRs w ≠ 0) →
      s.execute w = .refused .mustBeZero)

/-! ## System instructions (44_system_cp0) -/

/-- SYSCALL and BREAK complete by taking their exceptions, in either mode and with any code field (R261, R262). -/
def Obligations.SystemCallsEnter : Prop :=
  ∀ (s : State) (code : BitVec 20), s.Takes (exec (.syscall code) s) .sys ∧ s.Takes (exec (.brk code) s) .bp

/-- In user mode with CU[0] = 0 every coprocessor-0 instruction raises CpU with number 0 (R260). That the TLB
instructions, RFE and WAIT raise CpU too is the spec's own decision D7, log 38. -/
def Obligations.Cp0NeedsPrivilege : Prop :=
  ∀ (s : State) (rt rd : Reg), s.cpu.status.getLsbD 1 = true → s.cpu.status.getLsbD 28 = false →
    ∀ i ∈ [Instr.mfc0 rt rd, .mtc0 rt rd, .tlbr, .tlbwi, .tlbwr, .tlbp, .rfe, .wait],
      s.Takes (exec i s) (.copUnusable 0)

/-- MFC0 completes where CP0 is usable and reads the register of that number; Cause shows the live IP field (R263,
R38, R39). Status is stated where its unnamed bits are 0. The stored fields of Cause and the live IP are the spec's
own decisions D6 and D29. -/
def Obligations.Mfc0Completes : Prop :=
  ∀ (s : State) (rt rd : Reg) (r : Cp0Reg), s.cpu.unprivileged = false → s.cp0Of rd = some r →
    (r = .status → s.cpu.status &&& 0xE7BF00C0#32 = 0) →
    ∃ t v, exec (.mfc0 rt rd) s = .next t ∧ s.LoadResult t rt v ∧
      match r with
      | .index => v = s.cpu.index &&& 0x80003F00#32
      | .random => v.toNat = 256 * s.cpu.random.toNat
      | .entryLo => v = s.cpu.entryLo &&& 0xFFFFFF00#32
      | .badVAddr => v = s.cpu.badVAddr
      | .timer => v = s.cpu.timer
      | .entryHi => v = s.cpu.entryHi &&& 0xFFFFFFC0#32
      | .status => v = s.cpu.status
      | .cause => v &&& 0xB000007C#32 = s.cpu.cause &&& 0xB000007C#32 ∧ v &&& 0x4FFF0083#32 = 0 ∧
          ∀ l < 8, v.getLsbD (8 + l) = s.linePending s.cpu l
      | .epc => v = s.cpu.epc
      | .prid => v.toNat = s.cpu.prid.toNat

/-- MTC0 completes where CP0 is usable: it writes the writable bits of the register of that number, acknowledges the
local timer for Timer, and changes nothing for the read-only registers and for unknown numbers (R264). That
Index.P is not written, the write mask of Cause, the timer's acknowledgement and that a number of no register changes
nothing are the spec's own decisions D10, D6, D21 and D19, log 14 and log 16. -/
def Obligations.Mtc0Completes : Prop :=
  ∀ (s : State) (rt rd : Reg) (v : Word), s.cpu.unprivileged = false → v = s.cpu.src rt →
    ∃ t, exec (.mtc0 rt rd) s = .next t ∧ s.cpu.SameRegs t.cpu ∧ s.cpu.SameHiLo t.cpu ∧ s.cpu.Retired t.cpu ∧
      s.SameMem t ∧ s.SameMachine t ∧
      match s.cp0Of rd with
      | some .index => t.cpu.index = (s.cpu.index &&& 0xFFFFC0FF#32) ||| (v &&& 0x3F00#32) ∧
          s.cpu.SameControl { t.cpu with index := s.cpu.index }
      | some .entryLo => t.cpu.entryLo = v &&& 0xFFFFFF00#32 ∧
          s.cpu.SameControl { t.cpu with entryLo := s.cpu.entryLo }
      | some .entryHi => t.cpu.entryHi = v &&& 0xFFFFFFC0#32 ∧
          s.cpu.SameControl { t.cpu with entryHi := s.cpu.entryHi }
      | some .timer => t.cpu.timer = v ∧ t.cpu.pltPending = false ∧
          s.cpu.SameControl { t.cpu with timer := s.cpu.timer, pltPending := s.cpu.pltPending }
      | some .status => t.cpu.status &&& 0x1840FF3F#32 = v &&& 0x1840FF3F#32 ∧ t.cpu.status &&& 0xE0000000#32 = 0 ∧
          s.cpu.SameControl { t.cpu with status := s.cpu.status }
      | some .cause => (∀ i < 32, t.cpu.cause.getLsbD i =
            if s.cfg.causeWMask.getLsbD i && (0xB000007C#32).getLsbD i then v.getLsbD i
            else s.cpu.cause.getLsbD i) ∧ s.cpu.SameControl { t.cpu with cause := s.cpu.cause }
      | some .random | some .badVAddr | some .epc | some .prid | none => s.cpu.SameControl t.cpu

/-- TLBR, TLBWI and TLBWR complete where CP0 is usable (TLBR and TLBWI with an Index below TLBSIZE): the slot that
Index names is read into, or written from, EntryHi and EntryLo, and TLBWR writes some slot from 1 to TLBSIZE - 1; no
other slot or register changes (R265-R267). -/
def Obligations.TlbMovesComplete : Prop :=
  ∀ (s : State) (i : TlbIx), s.cpu.unprivileged = false →
    (i = s.cpu.index.extractLsb' 8 6 → i.toNat < s.cfg.tlbSize →
      (∃ t, exec .tlbr s = .next t ∧ t.cpu.entryHi = (s.cpu.tlbGet i).hi ∧ t.cpu.entryLo = (s.cpu.tlbGet i).lo ∧
        s.cpu.SameControl { t.cpu with entryHi := s.cpu.entryHi, entryLo := s.cpu.entryLo } ∧
        s.cpu.SameRegs t.cpu ∧ s.cpu.SameHiLo t.cpu ∧ s.cpu.Retired t.cpu ∧ s.SameMem t ∧ s.SameMachine t) ∧
      (∃ t, exec .tlbwi s = .next t ∧ t.cpu.tlbGet i = { hi := s.cpu.entryHi, lo := s.cpu.entryLo } ∧
        (∀ j ≠ i, t.cpu.tlbGet j = s.cpu.tlbGet j) ∧ s.cpu.SameControl { t.cpu with tlb := s.cpu.tlb } ∧
        s.cpu.SameRegs t.cpu ∧ s.cpu.SameHiLo t.cpu ∧ s.cpu.Retired t.cpu ∧ s.SameMem t ∧ s.SameMachine t)) ∧
    (s.cfg.valid = true →
      ∃ t k, exec .tlbwr s = .next t ∧ 1 ≤ k.toNat ∧ k.toNat < s.cfg.tlbSize ∧
        t.cpu.tlbGet k = { hi := s.cpu.entryHi, lo := s.cpu.entryLo } ∧
        (∀ j ≠ k, t.cpu.tlbGet j = s.cpu.tlbGet j) ∧ s.cpu.SameControl { t.cpu with tlb := s.cpu.tlb } ∧
        s.cpu.SameRegs t.cpu ∧ s.cpu.SameHiLo t.cpu ∧ s.cpu.Retired t.cpu ∧ s.SameMem t ∧ s.SameMachine t)

/-- TLBP completes where CP0 is usable: with a matching slot, Index holds the highest one and P = 0; with none, P = 1
(R268). That the highest of several matches is reported is the spec's own decision D10. The format of an entry is
R111's. -/
def Obligations.TlbProbeCompletes : Prop :=
  ∀ s : State, s.cpu.unprivileged = false → s.cfg.valid = true →
    ∃ t, exec .tlbp s = .next t ∧ s.cpu.SameControl { t.cpu with index := s.cpu.index } ∧ s.cpu.SameRegs t.cpu ∧
      s.cpu.SameHiLo t.cpu ∧ s.cpu.Retired t.cpu ∧ s.SameMem t ∧ s.SameMachine t ∧
      (∀ i, s.Matches (s.cpu.entryHi.extractLsb' 12 20) i →
        (∀ j, s.Matches (s.cpu.entryHi.extractLsb' 12 20) j → j.toNat ≤ i.toNat) →
        t.cpu.index.toNat = 256 * i.toNat) ∧
      ((∀ i, ¬ s.Matches (s.cpu.entryHi.extractLsb' 12 20) i) → t.cpu.index.getLsbD 31 = true)

/-- RFE and WAIT complete where CP0 is usable: RFE pops the KU/IE stack, leaving the old bits (R269); WAIT makes the
processor Idle (R270). -/
def Obligations.RfeAndWaitComplete : Prop :=
  ∀ s : State, s.cpu.unprivileged = false →
    (∃ t, exec .rfe s = .next t ∧ t.cpu.status.extractLsb' 0 4 = s.cpu.status.extractLsb' 2 4 ∧
      t.cpu.status.extractLsb' 4 28 = s.cpu.status.extractLsb' 4 28 ∧
      s.cpu.SameControl { t.cpu with status := s.cpu.status } ∧ s.cpu.SameRegs t.cpu ∧ s.cpu.SameHiLo t.cpu ∧
      s.cpu.Retired t.cpu ∧ s.SameMem t ∧ s.SameMachine t) ∧
    (∃ t, exec .wait s = .next t ∧ t.cpu.power = .idle ∧
      s.cpu.SameControl { t.cpu with power := s.cpu.power, signalled := s.cpu.signalled } ∧ s.cpu.SameRegs t.cpu ∧
      s.cpu.SameHiLo t.cpu ∧ s.cpu.Retired t.cpu ∧ s.SameMem t ∧ s.SameMachine t)

/-! ## Exceptions and interrupts (60_exceptions) -/

/-- Exception entry does what R340 says and nothing else, for every exception (R340, R341, R343, R344), and the handler
reads the value of a load in its delay slot (R233). EPC and BD in a delay slot and the unchanged Cause.CE are the spec's
own decision D9, log 39; the load delay is D14. -/
def Obligations.EntryIsComplete : Prop := ∀ (s : State) (e : Exc), s.Entered (s.enter e) e

/-- What each exception records: its code (R331, R335), BadVAddr and EntryHi.VPN for addresses, CE for CpU (R343, R344);
and only a TLB-Refill enters the refill vector (R341). The code of a TLB-Refill and the unchanged CE are the spec's own
decisions D41 and D9. -/
def Obligations.ExceptionsRecord : Prop :=
  ∀ (k : Access) (va : Word) (z : BitVec 2),
    (∀ e ∈ [Exc.tlbInvalid k va, .tlbRefill k va], e.code = (if k = .store then 3 else 2) ∧
      e.badAddr = some va ∧ e.pageAddr = some va ∧ e.copNumber = none) ∧
    ((Exc.mod va).code = 1 ∧ (Exc.mod va).badAddr = some va ∧ (Exc.mod va).pageAddr = some va ∧
      (Exc.mod va).copNumber = none) ∧
    ((Exc.addressError k va).code = (if k = .store then 5 else 4) ∧ (Exc.addressError k va).badAddr = some va ∧
      (Exc.addressError k va).pageAddr = none ∧ (Exc.addressError k va).copNumber = none) ∧
    ((Exc.busError k va).code = (if k = .fetch then 6 else 7) ∧ (Exc.busError k va).badAddr = some va ∧
      (Exc.busError k va).pageAddr = none ∧ (Exc.busError k va).copNumber = none) ∧
    ((Exc.copUnusable z).code = 11 ∧ (Exc.copUnusable z).copNumber = some z ∧ (Exc.copUnusable z).badAddr = none ∧
      (Exc.copUnusable z).pageAddr = none) ∧
    (∀ p ∈ [(Exc.int, 0#5), (.sys, 8), (.bp, 9), (.ri, 10), (.ov, 12)],
      p.1.code = p.2 ∧ p.1.copNumber = none ∧ p.1.badAddr = none ∧ p.1.pageAddr = none) ∧
    (Exc.tlbRefill k va).isRefill = true ∧
    (∀ e ∈ [Exc.tlbInvalid k va, .mod va, .addressError k va, .busError k va, .copUnusable z, .int, .sys, .bp, .ri, .ov],
      e.isRefill = false)

/-- The KU/IE stacks: an exception entry pushes them, RFE pops them and leaves the old pair, so that the return restores
what the entry pushed; with IEc = 0 no interrupt is accepted, with IEc = 1 one is accepted exactly if a pending line's
mask bit is 1; in kernel mode, KUc = 0, MTC0 to the number that the configuration gives Status sets the six bits to any
value (R32, R33). -/
def Obligations.KuIeStacks : Prop :=
  ∀ (s : State) (e : Exc) (rt rd : Reg),
    (s.cpu.enter e).status.extractLsb' 0 6 = s.cpu.status.extractLsb' 0 4 ++ (0 : BitVec 2) ∧
    s.cpu.returnFromException.status.extractLsb' 0 4 = s.cpu.status.extractLsb' 2 4 ∧
    s.cpu.returnFromException.status.extractLsb' 4 2 = s.cpu.status.extractLsb' 4 2 ∧
    (s.cpu.enter e).returnFromException.status.extractLsb' 0 4 = s.cpu.status.extractLsb' 0 4 ∧
    (s.cpu.enter e).returnFromException.status.extractLsb' 6 26 = s.cpu.status.extractLsb' 6 26 ∧
    (s.cpu.status.getLsbD 0 = false → s.intAccepted = false) ∧
    (s.cpu.status.getLsbD 0 = true → (s.intAccepted = true ↔
      ∃ l < 8, s.cpu.status.getLsbD (8 + l) = true ∧ s.linePending s.cpu l = true)) ∧
    (s.cpu.status.getLsbD 1 = false → s.cp0Of rd = some .status → ∃ t, exec (.mtc0 rt rd) s = .next t ∧
      t.cpu.status.extractLsb' 0 6 = (s.cpu.src rt).extractLsb' 0 6)

/-- A Running processor with interrupts enabled and a pending line that is not masked takes the interrupt instead of
its instruction, and no interrupt otherwise (R351, R354). What makes a line pending (R39, R353): line 0 a queued
inter-processor interrupt (R395), line 1 the local timer's underflow with Status.TE (R48), line 2 the Interval Timer, and
lines 3 to 7 a request of one of the line's devices (R400, R413), each where its routing entry names the processor (R388,
R389) or dynamic routing gave it to the processor (R390). When interrupts are sampled, the local timer's pending bit and
the routing's details are the spec's own decisions D8, D21 and D32. -/
def Obligations.InterruptsAreTaken : Prop :=
  (∀ s : State, s.stopped = false → s.cpu.power = .running →
    ((∃ l < 8, s.cpu.status.getLsbD 0 = true ∧ s.cpu.status.getLsbD (8 + l) = true ∧
        s.linePending s.cpu l = true) → step s = .next (s.enter .int).endTurn) ∧
    ((∀ l < 8, s.cpu.status.getLsbD 0 = false ∨ s.cpu.status.getLsbD (8 + l) = false ∨
        s.linePending s.cpu l = false) → s.intAccepted = false)) ∧
  (∀ (s : State) (c : Cpu),
    (s.linePending c 0 = true ↔ ∃ i, i ∈ c.ipiQueue) ∧
    (s.linePending c 1 = true ↔ c.pltPending = true ∧ c.status.getLsbD 27 = true) ∧
    (s.linePending c 2 = true ↔ s.RoutedTo 0 s.itReq c.prid) ∧
    ∀ l, 3 ≤ l → l < 8 →
      (s.linePending c l = true ↔
        ∃ n d r, (n, d) ∈ s.devices ∧ 8 * (l - 3) ≤ n ∧ n < 8 * (l - 2) ∧ r ∈ d.reqs ∧ s.RoutedTo (n + 8) r c.prid))

/-- A step runs the decoded instruction: when no interrupt is accepted and the word at the program counter decodes to
`i`, the step is `exec i`, followed by the end of the turn (R480). A step is one processor's turn: the model's form of
D20, log 23. -/
def Obligations.StepRunsDecoded : Prop :=
  ∀ (s : State) (pa : Nat) (i : Instr), s.stopped = false → s.cpu.power = .running → s.intAccepted = false →
    s.Reaches .fetch .word s.cpu.pc pa → s.Readable pa →
    decode (s.mem.readWord s.cfg.bigEndian pa) = .instr i →
    (∀ t, exec i s = .next t → step s = .next t.endTurn) ∧
    (∀ f, exec i s = .fault f → step s = .fault f) ∧ (∀ r, exec i s = .refused r → step s = .refused r)

/-- A fetch whose address is refused by the translation, or reaches no memory, takes that exception; from a misaligned
program counter it is the Address Error with BadVAddr = EPC = `pc` outside a delay slot (R103, R92); one from a
register area is refused by name. That BadVAddr is the logical address, and the refusal, are the spec's own decisions
D25 and D23, log 21. -/
def Obligations.FetchTraps : Prop :=
  ∀ s : State, s.stopped = false → s.cpu.power = .running → s.intAccepted = false →
    (∀ e, translateAddr s.cfg s.cpu .fetch .word s.cpu.pc = .error e → step s = .next (s.enter e).endTurn) ∧
    (∀ pa, s.Reaches .fetch .word s.cpu.pc pa → regionOf s.cfg pa = .undefined →
      step s = .next (s.enter (.busError .fetch s.cpu.pc)).endTurn) ∧
    (∀ pa r, s.Reaches .fetch .word s.cpu.pc pa → regionOf s.cfg pa = .register r →
      step s = .refused .fetchFromRegister) ∧
    (s.cpu.pc.toNat % 4 ≠ 0 → ∃ t, step s = .next t.endTurn ∧ s.Entered t (.addressError .fetch s.cpu.pc) ∧
      t.cpu.badVAddr = s.cpu.pc ∧ (s.cpu.inDelay = false → t.cpu.epc = s.cpu.pc))

/-- A Halted processor executes nothing in its turn, nor does one that the default BIOS left in its loop, which no step
does (R316, log 37); an Idle one executes nothing and becomes Running when a line is pending, masked or not (R387,
R480); after the power-off no step is taken (R384, R399). The stop after the power-off and the turns are the spec's own
decisions D39, D40 and D20; WAIT_PENDING is log 25. -/
def Obligations.SleepingProcessors : Prop :=
  ∀ s : State,
    (s.stopped = false → s.cpu.power = .halted ∨ s.cpu.power = .stuck → step s = .next s.endTurn) ∧
    (s.stopped = false → s.cpu.power = .idle → s.cfg.waitNeedsSignal = false →
      (∃ l < 8, s.linePending s.cpu l = true) →
      step s = .next ({ s with cpu := { s.cpu with power := .running } } : State).endTurn) ∧
    (s.stopped = false → s.cpu.power = .idle → s.cfg.waitNeedsSignal = false →
      (∀ l < 8, s.linePending s.cpu l = false) → step s = .next s.endTurn) ∧
    (s.stopped = true → step s = .fault .poweredOff)

/-! ## Translation (20_memory) -/

/-- The translation depends on the TLB floor, RAMTOP, KUc, the current ASID and the TLB, and on nothing else of the
machine (R119). The spec derives this from R110. -/
def Obligations.TranslationReadsOnly : Prop :=
  ∀ (cfg cfg' : Config) (c c' : Cpu) (k : Access) (w : Width) (va : Word),
    cfg'.tlbFloor = cfg.tlbFloor → cfg'.ramFrames = cfg.ramFrames → cfg'.tlbSize = cfg.tlbSize →
    c'.status.getLsbD 1 = c.status.getLsbD 1 → c'.entryHi.extractLsb' 6 6 = c.entryHi.extractLsb' 6 6 →
    c'.tlb = c.tlb → translateAddr cfg' c' k w va = translateAddr cfg c k w va

/-- The translation of every access: fetch, load or store of a byte, half or word. A misaligned address, and in user mode
one below 0x8000.0000, is an Address Error. Else an address below the TLB floor is physical; at and above it the highest
matching slot decides: no match is a TLB-Refill, V = 0 a TLB-Invalid whatever D is, a store with D = 0 a
TLB-Modification, else the frame number and the offset make the physical address, which user mode may not have below
0x2000.0000 (R110, R113, R114, R116). That the user-mode test comes before the floor is the spec's own decision D26, log
39. -/
def Obligations.TranslationFollowsTlb : Prop :=
  ∀ (s : State) (k : Access) (w : Width) (va : Word) (floor : Nat), s.cfg.valid = true →
    floor = (match s.cfg.tlbFloor with
      | .vmOff => 2 ^ 32 | .kuseg => 0x80000000 | .kseg2 => 0x40000000
      | .ramTop => 0x20000000 + 4096 * s.cfg.ramFrames) →
    (va.toNat % w.bytes ≠ 0 ∨ (s.cpu.status.getLsbD 1 = true ∧ va.toNat < 0x80000000) →
      translateAddr s.cfg s.cpu k w va = .error (.addressError k va)) ∧
    (va.toNat % w.bytes = 0 → s.cpu.status.getLsbD 1 = false ∨ 0x80000000 ≤ va.toNat →
      (va.toNat < floor → translateAddr s.cfg s.cpu k w va = .ok va) ∧
      (floor ≤ va.toNat → (∀ i, ¬ s.Matches (va.extractLsb' 12 20) i) →
        translateAddr s.cfg s.cpu k w va = .error (.tlbRefill k va)) ∧
      (∀ i, floor ≤ va.toNat → s.Matches (va.extractLsb' 12 20) i →
        (∀ j, s.Matches (va.extractLsb' 12 20) j → j.toNat ≤ i.toNat) →
        translateAddr s.cfg s.cpu k w va =
          if (s.cpu.tlbGet i).lo.getLsbD 9 = false then .error (.tlbInvalid k va)
          else if k = .store ∧ (s.cpu.tlbGet i).lo.getLsbD 10 = false then .error (.mod va)
          else if s.cpu.status.getLsbD 1 = true ∧ (s.cpu.tlbGet i).lo.toNat < 0x20000000 then
            .error (.addressError k va)
          else .ok ((s.cpu.tlbGet i).lo.extractLsb' 12 20 ++ va.extractLsb' 0 12)))

/-- In user mode only addresses at or above 0x8000.0000 are translated, and none to a physical address below
0x2000.0000 (R82, R110, R361). -/
def Obligations.UserAddresses : Prop :=
  ∀ (cfg : Config) (c : Cpu) (k : Access) (w : Width) (va pa : Word), c.status.getLsbD 1 = true →
    translateAddr cfg c k w va = .ok pa → 0x80000000 ≤ va.toNat ∧ 0x20000000 ≤ pa.toNat

/-! ## Clocks -/

/-- At the end of a tick TOD counts up, the Interval Timer counts down and interrupts on the underflow, and the
current processor's own timer does so while Status.TE is 1 (R370, R371, R48). The local timer's pending bit is the
spec's own decision D21. -/
def Obligations.ClocksTick : Prop :=
  ∀ s : State,
    s.tickClocks.tod.toNat = (s.tod.toNat + 1) % 2 ^ 64 ∧
    s.tickClocks.intervalTimer.toNat = (s.intervalTimer.toNat + 2 ^ 32 - 1) % 2 ^ 32 ∧
    (s.tickClocks.itReq.pending = true ↔ s.itReq.pending = true ∨ s.intervalTimer = 0) ∧
    (s.cpu.power ≠ .halted → s.cpu.status.getLsbD 27 = true →
      s.tickClocks.cpu.timer = s.cpu.timer - 1 ∧
      (s.tickClocks.cpu.pltPending = true ↔ s.cpu.pltPending = true ∨ s.cpu.timer = 0)) ∧
    (s.cpu.status.getLsbD 27 = false →
      s.tickClocks.cpu.timer = s.cpu.timer ∧ s.tickClocks.cpu.pltPending = s.cpu.pltPending)

/-- Random counts down by one in every tick from TLBSIZE - 1 to 1 and starts again, so it never names slot 0 (R41). -/
def Obligations.RandomCountsDown : Prop :=
  ∀ s : State, s.cfg.valid = true → s.cpu.power ≠ .halted → 1 ≤ s.cpu.random.toNat →
    s.cpu.random.toNat < s.cfg.tlbSize →
    s.tickClocks.cpu.random.toNat =
      (if s.cpu.random.toNat = 1 then s.cfg.tlbSize - 1 else s.cpu.random.toNat - 1) ∧
    1 ≤ s.tickClocks.cpu.random.toNat

/-- No step changes the configuration (R9: "constant while the machine runs"); and on a machine with one processor,
and nothing that the host will do, every step is one tick of TOD (R370, R481). One step per tick on one processor is
the model's form of D20, log 23. -/
def Obligations.StepsTickUnderOneConfiguration : Prop :=
  ∀ s t : State, step s = .next t →
    t.cfg = s.cfg ∧ (s.todo = [] → s.inputs = [] → t.tod = s.tod + 1 ∧ t.now = s.now + 1)

/-! ## Invariants and isolation -/

/-- Every step keeps the machine well formed: memory and media in canonical form, register 0, the fixed bits of
Status, Cause, Index, EntryHi, EntryLo and the TLB, the range of Random, at most one IPI per origin, the processors'
numbers, and every device with a geometry in range (R474) on the line of its class, at most eight of each (R400). The stored bits of Cause and Index
and the limit of one IPI per origin are the spec's own decisions D6, D10 and D44. -/
def Obligations.StepKeepsWellFormed : Prop :=
  ∀ s t : State, s.WellFormed → step s = .next t → t.WellFormed

/-- The machine right after reset is well formed. What the spec leaves `any` at reset is the model's choice, log 3,
log 4 and log 5. -/
def Obligations.ResetIsWellFormed : Prop := State.reset.WellFormed

/-- The machine right after reset holds what R65 states. -/
def Obligations.ResetValues : Prop :=
  State.reset.cpu.power = .running ∧ State.reset.cpu.pc = 0x1FC00000#32 ∧ State.reset.cpu.npc = 0x1FC00004#32 ∧
  State.reset.cpu.inDelay = false ∧ (∀ r, State.reset.cpu.reg r = 0) ∧ State.reset.cpu.hi = 0 ∧
  State.reset.cpu.lo = 0 ∧ State.reset.cpu.status = 0x10400000#32 ∧ State.reset.cpu.cause = 0 ∧
  State.reset.causeIP State.reset.cpu = 0 ∧ State.reset.cpu.epc = 0 ∧ State.reset.cpu.badVAddr = 0 ∧
  State.reset.cpu.entryHi = 0 ∧ State.reset.cpu.entryLo = 0 ∧ State.reset.cpu.index = 0 ∧
  State.reset.cpu.timer = 0 ∧ State.reset.cpu.pltPending = false ∧
  State.reset.cpu.random.toNat = State.reset.cfg.tlbSize - 1 ∧ State.reset.cpu.prid = 0 ∧ State.reset.tod = 0 ∧
  State.reset.intervalTimer = 0xFFFFFFFF#32 ∧ State.reset.itReq.pending = false ∧
  (∀ e, State.reset.irtEntry e = 0) ∧ State.reset.cpu.ipiQueue = [] ∧ State.reset.powerOffAt = none

/-- In user mode with CU[0] = 0 no instruction changes CP0, the TLB, the bus, a device, another processor or a byte
outside RAM, except by taking an exception, which enters kernel mode at a vector (R361, R362). The spec derives the
mode changes from R340. -/
def Obligations.UserModeIsConfined : Prop :=
  ∀ (s t : State) (i : Instr), s.cfg.valid = true → s.cpu.unprivileged = true → exec i s = .next t →
    (∃ e, s.Entered t e) ∨
    (s.cpu.SameControl t.cpu ∧ s.SameMachine t ∧
      ∀ a, t.mem.read a ≠ s.mem.read a → 0x20000000 ≤ a ∧ a < s.cfg.ramTop)
end

