-- ==== Sys2Proof/Laws/Memory.lean ====
section
/-! SUPPORT. The laws of memory (spec/20_memory.md R100, R104): what is read after a write, and that every operation
keeps the canonical form. -/

namespace Sys2Proof.Machine

/-! ## Read after write -/

theorem lookupCell_insertCell (a : Nat) (v : Byte) (cs : List Host.Cell) (b : Nat) :
    lookupCell (insertCell a v cs) b = if b = a then v else lookupCell cs b := by
  induction cs with
  | nil => simp [insertCell, lookupCell]
  | cons c cs ih =>
    obtain ⟨k, w⟩ := c
    simp only [insertCell]
    split
    · simp [lookupCell]
    · split
      · next h =>
        subst h
        simp only [lookupCell]
        split <;> simp_all
      · simp only [lookupCell, ih]
        split <;> split <;> simp_all

theorem lookupCell_eraseCell (a : Nat) (cs : List Host.Cell) (b : Nat) :
    lookupCell (eraseCell a cs) b = if b = a then Memory.unlisted else lookupCell cs b := by
  induction cs with
  | nil => simp [eraseCell, lookupCell]
  | cons c cs ih =>
    obtain ⟨k, w⟩ := c
    simp only [eraseCell]
    split
    · next h =>
      subst h
      rw [ih]
      simp only [lookupCell]
      split <;> simp_all
    · simp only [lookupCell, ih]
      split <;> split <;> simp_all

/-- Reading a byte after writing one. -/
theorem Memory.read_write (m : Memory) (a : Nat) (v : Byte) (b : Nat) :
    (m.write a v).read b = if b = a then v else m.read b := by
  unfold Memory.write Memory.read
  split
  · next h => simp only [lookupCell_eraseCell, h]
  · simp only [lookupCell_insertCell]

theorem Memory.read_write_self (m : Memory) (a : Nat) (v : Byte) : (m.write a v).read a = v := by
  simp [Memory.read_write]

theorem Memory.read_write_ne (m : Memory) {a b : Nat} (v : Byte) (h : b ≠ a) :
    (m.write a v).read b = m.read b := by
  simp [Memory.read_write, h]

/-- Reading a byte after writing consecutive bytes. -/
theorem Memory.read_writeBytes (m : Memory) (a : Nat) (bs : List Byte) (b : Nat) :
    (m.writeBytes a bs).read b = if a ≤ b then (bs[b - a]?).getD (m.read b) else m.read b := by
  induction bs generalizing m a with
  | nil => simp [Memory.writeBytes]
  | cons v bs ih =>
    rw [Memory.writeBytes, ih, Memory.read_write]
    by_cases h : b = a
    · subst h; simp
    · by_cases h1 : a ≤ b
      · have h2 : a + 1 ≤ b := by omega
        have h3 : b - a = (b - (a + 1)) + 1 := by omega
        simp [h, h1, h2, h3]
      · have h2 : ¬ a + 1 ≤ b := by omega
        simp [h, h1, h2]

theorem Memory.read_writeBytes_outside (m : Memory) (a : Nat) (bs : List Byte) (b : Nat)
    (h : b < a ∨ a + bs.length ≤ b) : (m.writeBytes a bs).read b = m.read b := by
  rw [Memory.read_writeBytes]
  split
  · rw [List.getElem?_eq_none (by omega)]; rfl
  · rfl

/-- Byte `k` of the bytes read from an address on. -/
theorem Memory.readBytes_get (m : Memory) (a n k : Nat) :
    (m.readBytes a n)[k]? = if k < n then some (m.read (a + k)) else none := by
  induction n generalizing a k with
  | zero => simp [Memory.readBytes]
  | succ n ih =>
    cases k with
    | zero => simp [Memory.readBytes]
    | succ k =>
      rw [Memory.readBytes, List.getElem?_cons_succ, ih]
      have : a + 1 + k = a + (k + 1) := by omega
      simp [this]

@[simp] theorem Memory.readBytes_length (m : Memory) (a n : Nat) : (m.readBytes a n).length = n := by
  induction n generalizing a with
  | zero => rfl
  | succ n ih => simp [Memory.readBytes, ih]

/-! ## Words and halfwords -/

theorem Memory.read_writeLane (big : Bool) (m : Memory) (a : Nat) (v : Word) (sel : Nat → Bool) (j b : Nat) :
    (m.writeLane big a v sel j).read b =
      if sel j = true ∧ b = a + laneOffset big j then laneOf v j else m.read b := by
  unfold Memory.writeLane
  by_cases h : sel j = true
  · rw [if_pos h, Memory.read_write]; simp [h]
  · rw [if_neg h]; simp [h]

theorem laneOffset_lt (big : Bool) (j : Nat) (h : j < 4) : laneOffset big j < 4 := by
  unfold laneOffset; split <;> omega

theorem laneOffset_inj (big : Bool) {j k : Nat} (hj : j < 4) (hk : k < 4)
    (h : laneOffset big j = laneOffset big k) : j = k := by
  unfold laneOffset at h; split at h <;> omega

/-- Reading the byte of lane `j` after writing selected lanes of a word (R100, R104). -/
theorem Memory.read_writeLanes (big : Bool) (m : Memory) (a : Nat) (v : Word) (sel : Nat → Bool) (j : Nat)
    (hj : j < 4) :
    (m.writeLanes big a v sel).read (a + laneOffset big j) =
      if sel j then laneOf v j else m.read (a + laneOffset big j) := by
  unfold Memory.writeLanes
  simp only [Memory.read_writeLane]
  have he : ∀ i, i < 4 → (a + laneOffset big j = a + laneOffset big i ↔ j = i) := fun i hi =>
    ⟨fun e => laneOffset_inj big hj hi (by omega), fun e => by rw [e]⟩
  simp only [he 0 (by omega), he 1 (by omega), he 2 (by omega), he 3 (by omega)]
  have h4 : j = 0 ∨ j = 1 ∨ j = 2 ∨ j = 3 := by omega
  rcases h4 with rfl | rfl | rfl | rfl <;> simp

/-- Writing lanes of a word leaves every byte outside it alone. -/
theorem Memory.read_writeLanes_outside (big : Bool) (m : Memory) (a : Nat) (v : Word) (sel : Nat → Bool) (b : Nat)
    (h : b < a ∨ a + 4 ≤ b) : (m.writeLanes big a v sel).read b = m.read b := by
  have hne : ∀ i, i < 4 → ¬ b = a + laneOffset big i := fun i hi e => by
    have := laneOffset_lt big i hi; omega
  simp only [Memory.writeLanes, Memory.read_writeLane, hne 0 (by omega), hne 1 (by omega), hne 2 (by omega),
    hne 3 (by omega), and_false, if_false]

/-- A word put together from its four lanes. -/
theorem word_of_lanes (v : Word) : laneOf v 3 ++ laneOf v 2 ++ laneOf v 1 ++ laneOf v 0 = v := by
  apply BitVec.eq_of_getLsbD_eq
  intro i hi
  simp only [laneOf, BitVec.getLsbD_append, BitVec.getLsbD_extractLsb']
  have : i < 8 ∨ (8 ≤ i ∧ i < 16) ∨ (16 ≤ i ∧ i < 24) ∨ (24 ≤ i ∧ i < 32) := by omega
  rcases this with h | h | h | h
  · simp [h]
  · have h1 : ¬ i < 8 := by omega
    have h2 : i - 8 < 8 := by omega
    simp [h1, h2]; congr 1; omega
  · have h1 : ¬ i < 8 := by omega
    have h2 : ¬ i - 8 < 8 := by omega
    have h3 : i - 8 - 8 < 8 := by omega
    simp [h1, h2, h3]; congr 1; omega
  · have h1 : ¬ i < 8 := by omega
    have h2 : ¬ i - 8 < 8 := by omega
    have h3 : ¬ i - 8 - 8 < 8 := by omega
    have h4 : i - 8 - 8 - 8 < 8 := by omega
    simp [h1, h2, h3, h4]; congr 1; omega

/-- Reading the word just written (R100). -/
theorem Memory.readWord_writeWord (big : Bool) (m : Memory) (a : Nat) (v : Word) :
    (m.writeWord big a v).readWord big a = v := by
  have h : ∀ j, j < 4 → (m.writeWord big a v).read (a + laneOffset big j) = laneOf v j := fun j hj => by
    rw [Memory.writeWord, Memory.read_writeLanes big m a v _ j hj]; simp
  unfold Memory.readWord wordOfBytes
  cases big with
  | true =>
    have h0 := h 3 (by omega); have h1 := h 2 (by omega); have h2 := h 1 (by omega); have h3 := h 0 (by omega)
    simp only [laneOffset, if_true, Nat.sub_self, Nat.add_zero] at h0 h1 h2 h3
    rw [if_pos rfl, h0, h1, h2, h3]; exact word_of_lanes v
  | false =>
    have h0 := h 0 (by omega); have h1 := h 1 (by omega); have h2 := h 2 (by omega); have h3 := h 3 (by omega)
    simp only [laneOffset, Bool.false_eq_true, if_false, Nat.add_zero] at h0 h1 h2 h3
    rw [if_neg (by decide), h0, h1, h2, h3]; exact word_of_lanes v

/-- Writing a halfword leaves every byte outside it alone. -/
theorem Memory.read_writeHalf_outside (big : Bool) (m : Memory) (a : Nat) (v : Half) (b : Nat)
    (h : b < a ∨ a + 2 ≤ b) : (m.writeHalf big a v).read b = m.read b := by
  have h0 : b ≠ a := by omega
  have h1 : b ≠ a + 1 := by omega
  unfold Memory.writeHalf
  split <;> rw [Memory.read_write_ne _ _ h1, Memory.read_write_ne _ _ h0]

/-- A store of some width leaves every byte outside it alone (R104). -/
theorem Memory.read_writeWidth_outside (big : Bool) (m : Memory) (w : Width) (a : Nat) (v : Word) (b : Nat)
    (h : b < a ∨ a + w.bytes ≤ b) : (m.writeWidth big w a v).read b = m.read b := by
  cases w with
  | byte => exact Memory.read_write_ne _ _ (by simp only [Width.bytes] at h; omega)
  | half => exact Memory.read_writeHalf_outside _ _ _ _ _ h
  | word => exact Memory.read_writeLanes_outside _ _ _ _ _ _ h

/-! ## The canonical form -/

/-- Every cell of a list lies at or above `n`, in rising order, and none reads as unlisted. -/
def cellsFrom : Nat → List Host.Cell → Bool
  | _, [] => true
  | n, (a, v) :: rest => decide (n ≤ a) && v != Memory.unlisted && cellsFrom (a + 1) rest

theorem cellsFrom_mono {m n : Nat} (h : m ≤ n) : ∀ cs, cellsFrom n cs = true → cellsFrom m cs = true
  | [], _ => rfl
  | (a, v) :: rest, hc => by
    simp only [cellsFrom, Bool.and_eq_true, decide_eq_true_eq] at hc ⊢
    exact ⟨⟨by omega, hc.1.2⟩, hc.2⟩

theorem wfCells_cons (a : Nat) (v : Byte) (rest : List Host.Cell) :
    Memory.wfCells ((a, v) :: rest) = (v != Memory.unlisted && cellsFrom (a + 1) rest) := by
  induction rest generalizing a v with
  | nil => simp [Memory.wfCells, cellsFrom]
  | cons c rest ih =>
    obtain ⟨b, w⟩ := c
    have hd : decide (a < b) = decide (a + 1 ≤ b) := rfl
    rw [Memory.wfCells, ih, cellsFrom, hd]
    cases v != Memory.unlisted <;> cases w != Memory.unlisted <;> cases decide (a + 1 ≤ b) <;> simp

/-- The canonical form, as a recursion on the lowest address allowed. -/
theorem wfCells_eq (cs : List Host.Cell) : Memory.wfCells cs = cellsFrom 0 cs := by
  cases cs with
  | nil => rfl
  | cons c rest => obtain ⟨a, v⟩ := c; rw [wfCells_cons, cellsFrom]; simp

theorem cellsFrom_insertCell (a : Nat) (v : Byte) (hv : (v != Memory.unlisted) = true) :
    ∀ (cs : List Host.Cell) (n : Nat), n ≤ a → cellsFrom n cs = true → cellsFrom n (insertCell a v cs) = true
  | [], n, hn, _ => by simp [insertCell, cellsFrom, hn, hv]
  | (b, w) :: rest, n, hn, hc => by
    simp only [cellsFrom, Bool.and_eq_true, decide_eq_true_eq] at hc
    simp only [insertCell]
    split
    · next h => simp only [cellsFrom, Bool.and_eq_true, decide_eq_true_eq]; exact ⟨⟨hn, hv⟩, ⟨by omega, hc.1.2⟩, hc.2⟩
    · split
      · next h => subst h; simp only [cellsFrom, Bool.and_eq_true, decide_eq_true_eq]; exact ⟨⟨hn, hv⟩, hc.2⟩
      · simp only [cellsFrom, Bool.and_eq_true, decide_eq_true_eq]
        exact ⟨hc.1, cellsFrom_insertCell a v hv rest (b + 1) (by omega) hc.2⟩

theorem cellsFrom_eraseCell (a : Nat) :
    ∀ (cs : List Host.Cell) (n : Nat), cellsFrom n cs = true → cellsFrom n (eraseCell a cs) = true
  | [], _, _ => rfl
  | (b, w) :: rest, n, hc => by
    simp only [cellsFrom, Bool.and_eq_true, decide_eq_true_eq] at hc
    simp only [eraseCell]
    split
    · exact cellsFrom_mono (by omega) _ (cellsFrom_eraseCell a rest (b + 1) hc.2)
    · simp only [cellsFrom, Bool.and_eq_true, decide_eq_true_eq]
      exact ⟨hc.1, cellsFrom_eraseCell a rest (b + 1) hc.2⟩

theorem cellsFrom_filter (p : Host.Cell → Bool) :
    ∀ (cs : List Host.Cell) (n : Nat), cellsFrom n cs = true → cellsFrom n (cs.filter p) = true
  | [], _, _ => rfl
  | (b, w) :: rest, n, hc => by
    simp only [cellsFrom, Bool.and_eq_true, decide_eq_true_eq] at hc
    rw [List.filter_cons]
    split
    · simp only [cellsFrom, Bool.and_eq_true, decide_eq_true_eq]
      exact ⟨hc.1, cellsFrom_filter p rest (b + 1) hc.2⟩
    · exact cellsFrom_mono (by omega) _ (cellsFrom_filter p rest (b + 1) hc.2)

/-- A byte write keeps the canonical form. -/
theorem Memory.wf_write (m : Memory) (a : Nat) (v : Byte) (h : m.wf = true) : (m.write a v).wf = true := by
  unfold Memory.wf at *
  rw [wfCells_eq] at *
  unfold Memory.write
  split
  · exact cellsFrom_eraseCell a _ 0 h
  · next hv => exact cellsFrom_insertCell a v (by simpa using hv) _ 0 (by omega) h

theorem Memory.wf_writeBytes (m : Memory) (a : Nat) (bs : List Byte) (h : m.wf = true) :
    (m.writeBytes a bs).wf = true := by
  induction bs generalizing m a with
  | nil => exact h
  | cons b bs ih => exact ih _ _ (Memory.wf_write m a b h)

theorem Memory.wf_writeLane (big : Bool) (m : Memory) (a : Nat) (v : Word) (sel : Nat → Bool) (j : Nat)
    (h : m.wf = true) : (m.writeLane big a v sel j).wf = true := by
  unfold Memory.writeLane; split
  · exact Memory.wf_write _ _ _ h
  · exact h

theorem Memory.wf_writeLanes (big : Bool) (m : Memory) (a : Nat) (v : Word) (sel : Nat → Bool) (h : m.wf = true) :
    (m.writeLanes big a v sel).wf = true :=
  Memory.wf_writeLane _ _ _ _ _ _ (Memory.wf_writeLane _ _ _ _ _ _
    (Memory.wf_writeLane _ _ _ _ _ _ (Memory.wf_writeLane _ _ _ _ _ _ h)))

theorem Memory.wf_writeWord (big : Bool) (m : Memory) (a : Nat) (v : Word) (h : m.wf = true) :
    (m.writeWord big a v).wf = true := Memory.wf_writeLanes _ _ _ _ _ h

theorem Memory.wf_writeHalf (big : Bool) (m : Memory) (a : Nat) (v : Half) (h : m.wf = true) :
    (m.writeHalf big a v).wf = true := by
  unfold Memory.writeHalf; split <;> exact Memory.wf_write _ _ _ (Memory.wf_write _ _ _ h)

theorem Memory.wf_writeWidth (big : Bool) (m : Memory) (w : Width) (a : Nat) (v : Word) (h : m.wf = true) :
    (m.writeWidth big w a v).wf = true := by
  cases w
  · exact Memory.wf_write _ _ _ h
  · exact Memory.wf_writeHalf _ _ _ _ h
  · exact Memory.wf_writeWord _ _ _ _ h

/-- The memory at reset is in canonical form. -/
theorem reset_mem_wf : State.reset.mem.wf = true := rfl

end Sys2Proof.Machine
end

