-- ==== Sys2Proof/Laws/State.lean ====
section
/-! SUPPORT. The fields of a state after each shared update of spec/10_state.md's machine: one lemma per field per
update, so that no proof unfolds a record update. -/

namespace Sys2Proof.Machine

/-! ## Free values drawn -/

@[simp] theorem State.drawn_cfg (s : State) (n : Nat) : (s.drawn n).cfg = s.cfg := rfl
@[simp] theorem State.drawn_cpu (s : State) (n : Nat) : (s.drawn n).cpu = s.cpu := rfl
@[simp] theorem State.drawn_todo (s : State) (n : Nat) : (s.drawn n).todo = s.todo := rfl
@[simp] theorem State.drawn_done (s : State) (n : Nat) : (s.drawn n).done = s.done := rfl
@[simp] theorem State.drawn_mem (s : State) (n : Nat) : (s.drawn n).mem = s.mem := rfl
@[simp] theorem State.drawn_tod (s : State) (n : Nat) : (s.drawn n).tod = s.tod := rfl
@[simp] theorem State.drawn_intervalTimer (s : State) (n : Nat) :
    (s.drawn n).intervalTimer = s.intervalTimer := rfl
@[simp] theorem State.drawn_itReq (s : State) (n : Nat) : (s.drawn n).itReq = s.itReq := rfl
@[simp] theorem State.drawn_irt (s : State) (n : Nat) : (s.drawn n).irt = s.irt := rfl
@[simp] theorem State.drawn_bootPc (s : State) (n : Nat) : (s.drawn n).bootPc = s.bootPc := rfl
@[simp] theorem State.drawn_bootSp (s : State) (n : Nat) : (s.drawn n).bootSp = s.bootSp := rfl
@[simp] theorem State.drawn_powerOffAt (s : State) (n : Nat) : (s.drawn n).powerOffAt = s.powerOffAt := rfl
@[simp] theorem State.drawn_stopped (s : State) (n : Nat) : (s.drawn n).stopped = s.stopped := rfl
@[simp] theorem State.drawn_devices (s : State) (n : Nat) : (s.drawn n).devices = s.devices := rfl
@[simp] theorem State.drawn_inputs (s : State) (n : Nat) : (s.drawn n).inputs = s.inputs := rfl
@[simp] theorem State.drawn_now (s : State) (n : Nat) : (s.drawn n).now = s.now := rfl
@[simp] theorem State.drawn_draws (s : State) (n : Nat) : (s.drawn n).draws = s.draws + n := rfl

/-! ## An instruction completes -/

@[simp] theorem State.retire_cfg (s : State) : (s.retire).cfg = s.cfg := rfl
@[simp] theorem State.retire_cpu (s : State) : (s.retire).cpu = s.cpu.advance := rfl
@[simp] theorem State.retire_todo (s : State) : (s.retire).todo = s.todo := rfl
@[simp] theorem State.retire_done (s : State) : (s.retire).done = s.done := rfl
@[simp] theorem State.retire_mem (s : State) : (s.retire).mem = s.mem := rfl
@[simp] theorem State.retire_tod (s : State) : (s.retire).tod = s.tod := rfl
@[simp] theorem State.retire_intervalTimer (s : State) : (s.retire).intervalTimer = s.intervalTimer := rfl
@[simp] theorem State.retire_itReq (s : State) : (s.retire).itReq = s.itReq := rfl
@[simp] theorem State.retire_irt (s : State) : (s.retire).irt = s.irt := rfl
@[simp] theorem State.retire_bootPc (s : State) : (s.retire).bootPc = s.bootPc := rfl
@[simp] theorem State.retire_bootSp (s : State) : (s.retire).bootSp = s.bootSp := rfl
@[simp] theorem State.retire_powerOffAt (s : State) : (s.retire).powerOffAt = s.powerOffAt := rfl
@[simp] theorem State.retire_stopped (s : State) : (s.retire).stopped = s.stopped := rfl
@[simp] theorem State.retire_devices (s : State) : (s.retire).devices = s.devices := rfl
@[simp] theorem State.retire_inputs (s : State) : (s.retire).inputs = s.inputs := rfl
@[simp] theorem State.retire_now (s : State) : (s.retire).now = s.now := rfl
@[simp] theorem State.retire_draws (s : State) : (s.retire).draws = s.draws := rfl

/-! ## A register result -/

@[simp] theorem State.retireReg_cfg (s : State) (r : Reg) (v : Word) : (s.retireReg r v).cfg = s.cfg := rfl
@[simp] theorem State.retireReg_cpu (s : State) (r : Reg) (v : Word) :
    (s.retireReg r v).cpu = s.cpu.advance.setReg r v := rfl
@[simp] theorem State.retireReg_todo (s : State) (r : Reg) (v : Word) : (s.retireReg r v).todo = s.todo := rfl
@[simp] theorem State.retireReg_done (s : State) (r : Reg) (v : Word) : (s.retireReg r v).done = s.done := rfl
@[simp] theorem State.retireReg_mem (s : State) (r : Reg) (v : Word) : (s.retireReg r v).mem = s.mem := rfl
@[simp] theorem State.retireReg_tod (s : State) (r : Reg) (v : Word) : (s.retireReg r v).tod = s.tod := rfl
@[simp] theorem State.retireReg_intervalTimer (s : State) (r : Reg) (v : Word) :
    (s.retireReg r v).intervalTimer = s.intervalTimer := rfl
@[simp] theorem State.retireReg_itReq (s : State) (r : Reg) (v : Word) :
    (s.retireReg r v).itReq = s.itReq := rfl
@[simp] theorem State.retireReg_irt (s : State) (r : Reg) (v : Word) : (s.retireReg r v).irt = s.irt := rfl
@[simp] theorem State.retireReg_bootPc (s : State) (r : Reg) (v : Word) :
    (s.retireReg r v).bootPc = s.bootPc := rfl
@[simp] theorem State.retireReg_bootSp (s : State) (r : Reg) (v : Word) :
    (s.retireReg r v).bootSp = s.bootSp := rfl
@[simp] theorem State.retireReg_powerOffAt (s : State) (r : Reg) (v : Word) :
    (s.retireReg r v).powerOffAt = s.powerOffAt := rfl
@[simp] theorem State.retireReg_stopped (s : State) (r : Reg) (v : Word) :
    (s.retireReg r v).stopped = s.stopped := rfl
@[simp] theorem State.retireReg_devices (s : State) (r : Reg) (v : Word) :
    (s.retireReg r v).devices = s.devices := rfl
@[simp] theorem State.retireReg_inputs (s : State) (r : Reg) (v : Word) :
    (s.retireReg r v).inputs = s.inputs := rfl
@[simp] theorem State.retireReg_now (s : State) (r : Reg) (v : Word) : (s.retireReg r v).now = s.now := rfl
@[simp] theorem State.retireReg_draws (s : State) (r : Reg) (v : Word) :
    (s.retireReg r v).draws = s.draws := rfl

/-! ## HI and LO -/

@[simp] theorem State.retireHiLo_cfg (s : State) (h l : Word) : (s.retireHiLo h l).cfg = s.cfg := rfl
@[simp] theorem State.retireHiLo_cpu (s : State) (h l : Word) :
    (s.retireHiLo h l).cpu = { s.cpu.advance with hi := h, lo := l } := rfl
@[simp] theorem State.retireHiLo_todo (s : State) (h l : Word) : (s.retireHiLo h l).todo = s.todo := rfl
@[simp] theorem State.retireHiLo_done (s : State) (h l : Word) : (s.retireHiLo h l).done = s.done := rfl
@[simp] theorem State.retireHiLo_mem (s : State) (h l : Word) : (s.retireHiLo h l).mem = s.mem := rfl
@[simp] theorem State.retireHiLo_tod (s : State) (h l : Word) : (s.retireHiLo h l).tod = s.tod := rfl
@[simp] theorem State.retireHiLo_intervalTimer (s : State) (h l : Word) :
    (s.retireHiLo h l).intervalTimer = s.intervalTimer := rfl
@[simp] theorem State.retireHiLo_itReq (s : State) (h l : Word) : (s.retireHiLo h l).itReq = s.itReq := rfl
@[simp] theorem State.retireHiLo_irt (s : State) (h l : Word) : (s.retireHiLo h l).irt = s.irt := rfl
@[simp] theorem State.retireHiLo_bootPc (s : State) (h l : Word) : (s.retireHiLo h l).bootPc = s.bootPc := rfl
@[simp] theorem State.retireHiLo_bootSp (s : State) (h l : Word) : (s.retireHiLo h l).bootSp = s.bootSp := rfl
@[simp] theorem State.retireHiLo_powerOffAt (s : State) (h l : Word) :
    (s.retireHiLo h l).powerOffAt = s.powerOffAt := rfl
@[simp] theorem State.retireHiLo_stopped (s : State) (h l : Word) :
    (s.retireHiLo h l).stopped = s.stopped := rfl
@[simp] theorem State.retireHiLo_devices (s : State) (h l : Word) :
    (s.retireHiLo h l).devices = s.devices := rfl
@[simp] theorem State.retireHiLo_inputs (s : State) (h l : Word) : (s.retireHiLo h l).inputs = s.inputs := rfl
@[simp] theorem State.retireHiLo_now (s : State) (h l : Word) : (s.retireHiLo h l).now = s.now := rfl
@[simp] theorem State.retireHiLo_draws (s : State) (h l : Word) : (s.retireHiLo h l).draws = s.draws := rfl

/-! ## A branch -/

@[simp] theorem State.retireBranch_cfg (s : State) (t : Option Word) : (s.retireBranch t).cfg = s.cfg := rfl
@[simp] theorem State.retireBranch_cpu (s : State) (t : Option Word) :
    (s.retireBranch t).cpu = s.cpu.branch t := rfl
@[simp] theorem State.retireBranch_todo (s : State) (t : Option Word) :
    (s.retireBranch t).todo = s.todo := rfl
@[simp] theorem State.retireBranch_done (s : State) (t : Option Word) :
    (s.retireBranch t).done = s.done := rfl
@[simp] theorem State.retireBranch_mem (s : State) (t : Option Word) : (s.retireBranch t).mem = s.mem := rfl
@[simp] theorem State.retireBranch_tod (s : State) (t : Option Word) : (s.retireBranch t).tod = s.tod := rfl
@[simp] theorem State.retireBranch_intervalTimer (s : State) (t : Option Word) :
    (s.retireBranch t).intervalTimer = s.intervalTimer := rfl
@[simp] theorem State.retireBranch_itReq (s : State) (t : Option Word) :
    (s.retireBranch t).itReq = s.itReq := rfl
@[simp] theorem State.retireBranch_irt (s : State) (t : Option Word) : (s.retireBranch t).irt = s.irt := rfl
@[simp] theorem State.retireBranch_bootPc (s : State) (t : Option Word) :
    (s.retireBranch t).bootPc = s.bootPc := rfl
@[simp] theorem State.retireBranch_bootSp (s : State) (t : Option Word) :
    (s.retireBranch t).bootSp = s.bootSp := rfl
@[simp] theorem State.retireBranch_powerOffAt (s : State) (t : Option Word) :
    (s.retireBranch t).powerOffAt = s.powerOffAt := rfl
@[simp] theorem State.retireBranch_stopped (s : State) (t : Option Word) :
    (s.retireBranch t).stopped = s.stopped := rfl
@[simp] theorem State.retireBranch_devices (s : State) (t : Option Word) :
    (s.retireBranch t).devices = s.devices := rfl
@[simp] theorem State.retireBranch_inputs (s : State) (t : Option Word) :
    (s.retireBranch t).inputs = s.inputs := rfl
@[simp] theorem State.retireBranch_now (s : State) (t : Option Word) : (s.retireBranch t).now = s.now := rfl
@[simp] theorem State.retireBranch_draws (s : State) (t : Option Word) :
    (s.retireBranch t).draws = s.draws := rfl

/-! ## A branch that links -/

@[simp] theorem State.retireLink_cfg (s : State) (r : Reg) (t : Option Word) :
    (s.retireLink r t).cfg = s.cfg := rfl
@[simp] theorem State.retireLink_cpu (s : State) (r : Reg) (t : Option Word) :
    (s.retireLink r t).cpu = (s.cpu.branch t).setReg r (linkValue s.cpu.pc) := rfl
@[simp] theorem State.retireLink_todo (s : State) (r : Reg) (t : Option Word) :
    (s.retireLink r t).todo = s.todo := rfl
@[simp] theorem State.retireLink_done (s : State) (r : Reg) (t : Option Word) :
    (s.retireLink r t).done = s.done := rfl
@[simp] theorem State.retireLink_mem (s : State) (r : Reg) (t : Option Word) :
    (s.retireLink r t).mem = s.mem := rfl
@[simp] theorem State.retireLink_tod (s : State) (r : Reg) (t : Option Word) :
    (s.retireLink r t).tod = s.tod := rfl
@[simp] theorem State.retireLink_intervalTimer (s : State) (r : Reg) (t : Option Word) :
    (s.retireLink r t).intervalTimer = s.intervalTimer := rfl
@[simp] theorem State.retireLink_itReq (s : State) (r : Reg) (t : Option Word) :
    (s.retireLink r t).itReq = s.itReq := rfl
@[simp] theorem State.retireLink_irt (s : State) (r : Reg) (t : Option Word) :
    (s.retireLink r t).irt = s.irt := rfl
@[simp] theorem State.retireLink_bootPc (s : State) (r : Reg) (t : Option Word) :
    (s.retireLink r t).bootPc = s.bootPc := rfl
@[simp] theorem State.retireLink_bootSp (s : State) (r : Reg) (t : Option Word) :
    (s.retireLink r t).bootSp = s.bootSp := rfl
@[simp] theorem State.retireLink_powerOffAt (s : State) (r : Reg) (t : Option Word) :
    (s.retireLink r t).powerOffAt = s.powerOffAt := rfl
@[simp] theorem State.retireLink_stopped (s : State) (r : Reg) (t : Option Word) :
    (s.retireLink r t).stopped = s.stopped := rfl
@[simp] theorem State.retireLink_devices (s : State) (r : Reg) (t : Option Word) :
    (s.retireLink r t).devices = s.devices := rfl
@[simp] theorem State.retireLink_inputs (s : State) (r : Reg) (t : Option Word) :
    (s.retireLink r t).inputs = s.inputs := rfl
@[simp] theorem State.retireLink_now (s : State) (r : Reg) (t : Option Word) :
    (s.retireLink r t).now = s.now := rfl
@[simp] theorem State.retireLink_draws (s : State) (r : Reg) (t : Option Word) :
    (s.retireLink r t).draws = s.draws := rfl

/-! ## A load -/

@[simp] theorem State.retireLoad_cfg (s : State) (r : Reg) (v : Word) : (s.retireLoad r v).cfg = s.cfg := rfl
@[simp] theorem State.retireLoad_todo (s : State) (r : Reg) (v : Word) :
    (s.retireLoad r v).todo = s.todo := rfl
@[simp] theorem State.retireLoad_done (s : State) (r : Reg) (v : Word) :
    (s.retireLoad r v).done = s.done := rfl
@[simp] theorem State.retireLoad_mem (s : State) (r : Reg) (v : Word) : (s.retireLoad r v).mem = s.mem := rfl
@[simp] theorem State.retireLoad_tod (s : State) (r : Reg) (v : Word) : (s.retireLoad r v).tod = s.tod := rfl
@[simp] theorem State.retireLoad_intervalTimer (s : State) (r : Reg) (v : Word) :
    (s.retireLoad r v).intervalTimer = s.intervalTimer := rfl
@[simp] theorem State.retireLoad_itReq (s : State) (r : Reg) (v : Word) :
    (s.retireLoad r v).itReq = s.itReq := rfl
@[simp] theorem State.retireLoad_irt (s : State) (r : Reg) (v : Word) : (s.retireLoad r v).irt = s.irt := rfl
@[simp] theorem State.retireLoad_bootPc (s : State) (r : Reg) (v : Word) :
    (s.retireLoad r v).bootPc = s.bootPc := rfl
@[simp] theorem State.retireLoad_bootSp (s : State) (r : Reg) (v : Word) :
    (s.retireLoad r v).bootSp = s.bootSp := rfl
@[simp] theorem State.retireLoad_powerOffAt (s : State) (r : Reg) (v : Word) :
    (s.retireLoad r v).powerOffAt = s.powerOffAt := rfl
@[simp] theorem State.retireLoad_stopped (s : State) (r : Reg) (v : Word) :
    (s.retireLoad r v).stopped = s.stopped := rfl
@[simp] theorem State.retireLoad_devices (s : State) (r : Reg) (v : Word) :
    (s.retireLoad r v).devices = s.devices := rfl
@[simp] theorem State.retireLoad_inputs (s : State) (r : Reg) (v : Word) :
    (s.retireLoad r v).inputs = s.inputs := rfl
@[simp] theorem State.retireLoad_now (s : State) (r : Reg) (v : Word) : (s.retireLoad r v).now = s.now := rfl
@[simp] theorem State.retireLoad_draws (s : State) (r : Reg) (v : Word) :
    (s.retireLoad r v).draws = s.draws + 1 := rfl
@[simp] theorem State.retireLoad_cpu_prid (s : State) (r : Reg) (v : Word) :
    (s.retireLoad r v).cpu.prid = (s.cpu.advance.setReg r v).prid := rfl
@[simp] theorem State.retireLoad_cpu_gpr (s : State) (r : Reg) (v : Word) :
    (s.retireLoad r v).cpu.gpr = (s.cpu.advance.setReg r v).gpr := rfl
@[simp] theorem State.retireLoad_cpu_hi (s : State) (r : Reg) (v : Word) :
    (s.retireLoad r v).cpu.hi = (s.cpu.advance.setReg r v).hi := rfl
@[simp] theorem State.retireLoad_cpu_lo (s : State) (r : Reg) (v : Word) :
    (s.retireLoad r v).cpu.lo = (s.cpu.advance.setReg r v).lo := rfl
@[simp] theorem State.retireLoad_cpu_pc (s : State) (r : Reg) (v : Word) :
    (s.retireLoad r v).cpu.pc = (s.cpu.advance.setReg r v).pc := rfl
@[simp] theorem State.retireLoad_cpu_npc (s : State) (r : Reg) (v : Word) :
    (s.retireLoad r v).cpu.npc = (s.cpu.advance.setReg r v).npc := rfl
@[simp] theorem State.retireLoad_cpu_inDelay (s : State) (r : Reg) (v : Word) :
    (s.retireLoad r v).cpu.inDelay = (s.cpu.advance.setReg r v).inDelay := rfl
@[simp] theorem State.retireLoad_cpu_index (s : State) (r : Reg) (v : Word) :
    (s.retireLoad r v).cpu.index = (s.cpu.advance.setReg r v).index := rfl
@[simp] theorem State.retireLoad_cpu_random (s : State) (r : Reg) (v : Word) :
    (s.retireLoad r v).cpu.random = (s.cpu.advance.setReg r v).random := rfl
@[simp] theorem State.retireLoad_cpu_entryLo (s : State) (r : Reg) (v : Word) :
    (s.retireLoad r v).cpu.entryLo = (s.cpu.advance.setReg r v).entryLo := rfl
@[simp] theorem State.retireLoad_cpu_badVAddr (s : State) (r : Reg) (v : Word) :
    (s.retireLoad r v).cpu.badVAddr = (s.cpu.advance.setReg r v).badVAddr := rfl
@[simp] theorem State.retireLoad_cpu_timer (s : State) (r : Reg) (v : Word) :
    (s.retireLoad r v).cpu.timer = (s.cpu.advance.setReg r v).timer := rfl
@[simp] theorem State.retireLoad_cpu_entryHi (s : State) (r : Reg) (v : Word) :
    (s.retireLoad r v).cpu.entryHi = (s.cpu.advance.setReg r v).entryHi := rfl
@[simp] theorem State.retireLoad_cpu_status (s : State) (r : Reg) (v : Word) :
    (s.retireLoad r v).cpu.status = (s.cpu.advance.setReg r v).status := rfl
@[simp] theorem State.retireLoad_cpu_cause (s : State) (r : Reg) (v : Word) :
    (s.retireLoad r v).cpu.cause = (s.cpu.advance.setReg r v).cause := rfl
@[simp] theorem State.retireLoad_cpu_epc (s : State) (r : Reg) (v : Word) :
    (s.retireLoad r v).cpu.epc = (s.cpu.advance.setReg r v).epc := rfl
@[simp] theorem State.retireLoad_cpu_tlb (s : State) (r : Reg) (v : Word) :
    (s.retireLoad r v).cpu.tlb = (s.cpu.advance.setReg r v).tlb := rfl
@[simp] theorem State.retireLoad_cpu_power (s : State) (r : Reg) (v : Word) :
    (s.retireLoad r v).cpu.power = (s.cpu.advance.setReg r v).power := rfl
@[simp] theorem State.retireLoad_cpu_pltPending (s : State) (r : Reg) (v : Word) :
    (s.retireLoad r v).cpu.pltPending = (s.cpu.advance.setReg r v).pltPending := rfl
@[simp] theorem State.retireLoad_cpu_loadDelay (s : State) (r : Reg) (v : Word) :
    (s.retireLoad r v).cpu.loadDelay = if r = 0 then none else some { reg := r, old := s.cpu.reg r, draw := s.draws } := rfl
@[simp] theorem State.retireLoad_cpu_ipiQueue (s : State) (r : Reg) (v : Word) :
    (s.retireLoad r v).cpu.ipiQueue = (s.cpu.advance.setReg r v).ipiQueue := rfl
@[simp] theorem State.retireLoad_cpu_tpr (s : State) (r : Reg) (v : Word) :
    (s.retireLoad r v).cpu.tpr = (s.cpu.advance.setReg r v).tpr := rfl
@[simp] theorem State.retireLoad_cpu_biosReserved1 (s : State) (r : Reg) (v : Word) :
    (s.retireLoad r v).cpu.biosReserved1 = (s.cpu.advance.setReg r v).biosReserved1 := rfl
@[simp] theorem State.retireLoad_cpu_biosReserved2 (s : State) (r : Reg) (v : Word) :
    (s.retireLoad r v).cpu.biosReserved2 = (s.cpu.advance.setReg r v).biosReserved2 := rfl
@[simp] theorem State.retireLoad_cpu_signalled (s : State) (r : Reg) (v : Word) :
    (s.retireLoad r v).cpu.signalled = (s.cpu.advance.setReg r v).signalled := rfl

/-! ## Exception entry -/

@[simp] theorem State.enter_cfg (s : State) (e : Exc) : (s.enter e).cfg = s.cfg := rfl
@[simp] theorem State.enter_cpu (s : State) (e : Exc) : (s.enter e).cpu = s.cpu.enter e := rfl
@[simp] theorem State.enter_todo (s : State) (e : Exc) : (s.enter e).todo = s.todo := rfl
@[simp] theorem State.enter_done (s : State) (e : Exc) : (s.enter e).done = s.done := rfl
@[simp] theorem State.enter_mem (s : State) (e : Exc) : (s.enter e).mem = s.mem := rfl
@[simp] theorem State.enter_tod (s : State) (e : Exc) : (s.enter e).tod = s.tod := rfl
@[simp] theorem State.enter_intervalTimer (s : State) (e : Exc) :
    (s.enter e).intervalTimer = s.intervalTimer := rfl
@[simp] theorem State.enter_itReq (s : State) (e : Exc) : (s.enter e).itReq = s.itReq := rfl
@[simp] theorem State.enter_irt (s : State) (e : Exc) : (s.enter e).irt = s.irt := rfl
@[simp] theorem State.enter_bootPc (s : State) (e : Exc) : (s.enter e).bootPc = s.bootPc := rfl
@[simp] theorem State.enter_bootSp (s : State) (e : Exc) : (s.enter e).bootSp = s.bootSp := rfl
@[simp] theorem State.enter_powerOffAt (s : State) (e : Exc) : (s.enter e).powerOffAt = s.powerOffAt := rfl
@[simp] theorem State.enter_stopped (s : State) (e : Exc) : (s.enter e).stopped = s.stopped := rfl
@[simp] theorem State.enter_devices (s : State) (e : Exc) : (s.enter e).devices = s.devices := rfl
@[simp] theorem State.enter_inputs (s : State) (e : Exc) : (s.enter e).inputs = s.inputs := rfl
@[simp] theorem State.enter_now (s : State) (e : Exc) : (s.enter e).now = s.now := rfl
@[simp] theorem State.enter_draws (s : State) (e : Exc) : (s.enter e).draws = s.draws := rfl

/-! ## Every processor -/

@[simp] theorem State.mapCpus_cfg (s : State) (f : Cpu → Cpu) : (State.mapCpus f s).cfg = s.cfg := rfl
@[simp] theorem State.mapCpus_cpu (s : State) (f : Cpu → Cpu) : (State.mapCpus f s).cpu = f s.cpu := rfl
@[simp] theorem State.mapCpus_todo (s : State) (f : Cpu → Cpu) : (State.mapCpus f s).todo = s.todo.map f := rfl
@[simp] theorem State.mapCpus_done (s : State) (f : Cpu → Cpu) : (State.mapCpus f s).done = s.done.map f := rfl
@[simp] theorem State.mapCpus_mem (s : State) (f : Cpu → Cpu) : (State.mapCpus f s).mem = s.mem := rfl
@[simp] theorem State.mapCpus_tod (s : State) (f : Cpu → Cpu) : (State.mapCpus f s).tod = s.tod := rfl
@[simp] theorem State.mapCpus_intervalTimer (s : State) (f : Cpu → Cpu) :
    (State.mapCpus f s).intervalTimer = s.intervalTimer := rfl
@[simp] theorem State.mapCpus_itReq (s : State) (f : Cpu → Cpu) : (State.mapCpus f s).itReq = s.itReq := rfl
@[simp] theorem State.mapCpus_irt (s : State) (f : Cpu → Cpu) : (State.mapCpus f s).irt = s.irt := rfl
@[simp] theorem State.mapCpus_bootPc (s : State) (f : Cpu → Cpu) : (State.mapCpus f s).bootPc = s.bootPc := rfl
@[simp] theorem State.mapCpus_bootSp (s : State) (f : Cpu → Cpu) : (State.mapCpus f s).bootSp = s.bootSp := rfl
@[simp] theorem State.mapCpus_powerOffAt (s : State) (f : Cpu → Cpu) :
    (State.mapCpus f s).powerOffAt = s.powerOffAt := rfl
@[simp] theorem State.mapCpus_stopped (s : State) (f : Cpu → Cpu) : (State.mapCpus f s).stopped = s.stopped := rfl
@[simp] theorem State.mapCpus_devices (s : State) (f : Cpu → Cpu) : (State.mapCpus f s).devices = s.devices := rfl
@[simp] theorem State.mapCpus_inputs (s : State) (f : Cpu → Cpu) : (State.mapCpus f s).inputs = s.inputs := rfl
@[simp] theorem State.mapCpus_now (s : State) (f : Cpu → Cpu) : (State.mapCpus f s).now = s.now := rfl
@[simp] theorem State.mapCpus_draws (s : State) (f : Cpu → Cpu) : (State.mapCpus f s).draws = s.draws := rfl

/-! ## The program counter advances -/

@[simp] theorem Cpu.advance_prid (c : Cpu) : (c.advance).prid = c.prid := rfl
@[simp] theorem Cpu.advance_gpr (c : Cpu) : (c.advance).gpr = c.gpr := rfl
@[simp] theorem Cpu.advance_hi (c : Cpu) : (c.advance).hi = c.hi := rfl
@[simp] theorem Cpu.advance_lo (c : Cpu) : (c.advance).lo = c.lo := rfl
@[simp] theorem Cpu.advance_pc (c : Cpu) : (c.advance).pc = c.npc := rfl
@[simp] theorem Cpu.advance_npc (c : Cpu) : (c.advance).npc = c.npc + 4 := rfl
@[simp] theorem Cpu.advance_inDelay (c : Cpu) : (c.advance).inDelay = false := rfl
@[simp] theorem Cpu.advance_index (c : Cpu) : (c.advance).index = c.index := rfl
@[simp] theorem Cpu.advance_random (c : Cpu) : (c.advance).random = c.random := rfl
@[simp] theorem Cpu.advance_entryLo (c : Cpu) : (c.advance).entryLo = c.entryLo := rfl
@[simp] theorem Cpu.advance_badVAddr (c : Cpu) : (c.advance).badVAddr = c.badVAddr := rfl
@[simp] theorem Cpu.advance_timer (c : Cpu) : (c.advance).timer = c.timer := rfl
@[simp] theorem Cpu.advance_entryHi (c : Cpu) : (c.advance).entryHi = c.entryHi := rfl
@[simp] theorem Cpu.advance_status (c : Cpu) : (c.advance).status = c.status := rfl
@[simp] theorem Cpu.advance_cause (c : Cpu) : (c.advance).cause = c.cause := rfl
@[simp] theorem Cpu.advance_epc (c : Cpu) : (c.advance).epc = c.epc := rfl
@[simp] theorem Cpu.advance_tlb (c : Cpu) : (c.advance).tlb = c.tlb := rfl
@[simp] theorem Cpu.advance_power (c : Cpu) : (c.advance).power = c.power := rfl
@[simp] theorem Cpu.advance_pltPending (c : Cpu) : (c.advance).pltPending = c.pltPending := rfl
@[simp] theorem Cpu.advance_loadDelay (c : Cpu) : (c.advance).loadDelay = none := rfl
@[simp] theorem Cpu.advance_ipiQueue (c : Cpu) : (c.advance).ipiQueue = c.ipiQueue := rfl
@[simp] theorem Cpu.advance_tpr (c : Cpu) : (c.advance).tpr = c.tpr := rfl
@[simp] theorem Cpu.advance_biosReserved1 (c : Cpu) : (c.advance).biosReserved1 = c.biosReserved1 := rfl
@[simp] theorem Cpu.advance_biosReserved2 (c : Cpu) : (c.advance).biosReserved2 = c.biosReserved2 := rfl
@[simp] theorem Cpu.advance_signalled (c : Cpu) : (c.advance).signalled = c.signalled := rfl

/-! ## The program counter branches -/

@[simp] theorem Cpu.branch_prid (c : Cpu) (t : Option Word) : (c.branch t).prid = c.prid := rfl
@[simp] theorem Cpu.branch_gpr (c : Cpu) (t : Option Word) : (c.branch t).gpr = c.gpr := rfl
@[simp] theorem Cpu.branch_hi (c : Cpu) (t : Option Word) : (c.branch t).hi = c.hi := rfl
@[simp] theorem Cpu.branch_lo (c : Cpu) (t : Option Word) : (c.branch t).lo = c.lo := rfl
@[simp] theorem Cpu.branch_pc (c : Cpu) (t : Option Word) : (c.branch t).pc = c.npc := rfl
@[simp] theorem Cpu.branch_npc (c : Cpu) (t : Option Word) : (c.branch t).npc = t.getD (c.npc + 4) := rfl
@[simp] theorem Cpu.branch_inDelay (c : Cpu) (t : Option Word) : (c.branch t).inDelay = true := rfl
@[simp] theorem Cpu.branch_index (c : Cpu) (t : Option Word) : (c.branch t).index = c.index := rfl
@[simp] theorem Cpu.branch_random (c : Cpu) (t : Option Word) : (c.branch t).random = c.random := rfl
@[simp] theorem Cpu.branch_entryLo (c : Cpu) (t : Option Word) : (c.branch t).entryLo = c.entryLo := rfl
@[simp] theorem Cpu.branch_badVAddr (c : Cpu) (t : Option Word) : (c.branch t).badVAddr = c.badVAddr := rfl
@[simp] theorem Cpu.branch_timer (c : Cpu) (t : Option Word) : (c.branch t).timer = c.timer := rfl
@[simp] theorem Cpu.branch_entryHi (c : Cpu) (t : Option Word) : (c.branch t).entryHi = c.entryHi := rfl
@[simp] theorem Cpu.branch_status (c : Cpu) (t : Option Word) : (c.branch t).status = c.status := rfl
@[simp] theorem Cpu.branch_cause (c : Cpu) (t : Option Word) : (c.branch t).cause = c.cause := rfl
@[simp] theorem Cpu.branch_epc (c : Cpu) (t : Option Word) : (c.branch t).epc = c.epc := rfl
@[simp] theorem Cpu.branch_tlb (c : Cpu) (t : Option Word) : (c.branch t).tlb = c.tlb := rfl
@[simp] theorem Cpu.branch_power (c : Cpu) (t : Option Word) : (c.branch t).power = c.power := rfl
@[simp] theorem Cpu.branch_pltPending (c : Cpu) (t : Option Word) :
    (c.branch t).pltPending = c.pltPending := rfl
@[simp] theorem Cpu.branch_loadDelay (c : Cpu) (t : Option Word) : (c.branch t).loadDelay = none := rfl
@[simp] theorem Cpu.branch_ipiQueue (c : Cpu) (t : Option Word) : (c.branch t).ipiQueue = c.ipiQueue := rfl
@[simp] theorem Cpu.branch_tpr (c : Cpu) (t : Option Word) : (c.branch t).tpr = c.tpr := rfl
@[simp] theorem Cpu.branch_biosReserved1 (c : Cpu) (t : Option Word) :
    (c.branch t).biosReserved1 = c.biosReserved1 := rfl
@[simp] theorem Cpu.branch_biosReserved2 (c : Cpu) (t : Option Word) :
    (c.branch t).biosReserved2 = c.biosReserved2 := rfl
@[simp] theorem Cpu.branch_signalled (c : Cpu) (t : Option Word) : (c.branch t).signalled = c.signalled := rfl

/-! ## A general register is written -/

@[simp] theorem Cpu.setReg_prid (c : Cpu) (r : Reg) (v : Word) :
    (c.setReg r v).prid = c.prid := by
  unfold Cpu.setReg; split <;> rfl
@[simp] theorem Cpu.setReg_hi (c : Cpu) (r : Reg) (v : Word) :
    (c.setReg r v).hi = c.hi := by
  unfold Cpu.setReg; split <;> rfl
@[simp] theorem Cpu.setReg_lo (c : Cpu) (r : Reg) (v : Word) :
    (c.setReg r v).lo = c.lo := by
  unfold Cpu.setReg; split <;> rfl
@[simp] theorem Cpu.setReg_pc (c : Cpu) (r : Reg) (v : Word) :
    (c.setReg r v).pc = c.pc := by
  unfold Cpu.setReg; split <;> rfl
@[simp] theorem Cpu.setReg_npc (c : Cpu) (r : Reg) (v : Word) :
    (c.setReg r v).npc = c.npc := by
  unfold Cpu.setReg; split <;> rfl
@[simp] theorem Cpu.setReg_inDelay (c : Cpu) (r : Reg) (v : Word) :
    (c.setReg r v).inDelay = c.inDelay := by
  unfold Cpu.setReg; split <;> rfl
@[simp] theorem Cpu.setReg_index (c : Cpu) (r : Reg) (v : Word) :
    (c.setReg r v).index = c.index := by
  unfold Cpu.setReg; split <;> rfl
@[simp] theorem Cpu.setReg_random (c : Cpu) (r : Reg) (v : Word) :
    (c.setReg r v).random = c.random := by
  unfold Cpu.setReg; split <;> rfl
@[simp] theorem Cpu.setReg_entryLo (c : Cpu) (r : Reg) (v : Word) :
    (c.setReg r v).entryLo = c.entryLo := by
  unfold Cpu.setReg; split <;> rfl
@[simp] theorem Cpu.setReg_badVAddr (c : Cpu) (r : Reg) (v : Word) :
    (c.setReg r v).badVAddr = c.badVAddr := by
  unfold Cpu.setReg; split <;> rfl
@[simp] theorem Cpu.setReg_timer (c : Cpu) (r : Reg) (v : Word) :
    (c.setReg r v).timer = c.timer := by
  unfold Cpu.setReg; split <;> rfl
@[simp] theorem Cpu.setReg_entryHi (c : Cpu) (r : Reg) (v : Word) :
    (c.setReg r v).entryHi = c.entryHi := by
  unfold Cpu.setReg; split <;> rfl
@[simp] theorem Cpu.setReg_status (c : Cpu) (r : Reg) (v : Word) :
    (c.setReg r v).status = c.status := by
  unfold Cpu.setReg; split <;> rfl
@[simp] theorem Cpu.setReg_cause (c : Cpu) (r : Reg) (v : Word) :
    (c.setReg r v).cause = c.cause := by
  unfold Cpu.setReg; split <;> rfl
@[simp] theorem Cpu.setReg_epc (c : Cpu) (r : Reg) (v : Word) :
    (c.setReg r v).epc = c.epc := by
  unfold Cpu.setReg; split <;> rfl
@[simp] theorem Cpu.setReg_tlb (c : Cpu) (r : Reg) (v : Word) :
    (c.setReg r v).tlb = c.tlb := by
  unfold Cpu.setReg; split <;> rfl
@[simp] theorem Cpu.setReg_power (c : Cpu) (r : Reg) (v : Word) :
    (c.setReg r v).power = c.power := by
  unfold Cpu.setReg; split <;> rfl
@[simp] theorem Cpu.setReg_pltPending (c : Cpu) (r : Reg) (v : Word) :
    (c.setReg r v).pltPending = c.pltPending := by
  unfold Cpu.setReg; split <;> rfl
@[simp] theorem Cpu.setReg_loadDelay (c : Cpu) (r : Reg) (v : Word) :
    (c.setReg r v).loadDelay = c.loadDelay := by
  unfold Cpu.setReg; split <;> rfl
@[simp] theorem Cpu.setReg_ipiQueue (c : Cpu) (r : Reg) (v : Word) :
    (c.setReg r v).ipiQueue = c.ipiQueue := by
  unfold Cpu.setReg; split <;> rfl
@[simp] theorem Cpu.setReg_tpr (c : Cpu) (r : Reg) (v : Word) :
    (c.setReg r v).tpr = c.tpr := by
  unfold Cpu.setReg; split <;> rfl
@[simp] theorem Cpu.setReg_biosReserved1 (c : Cpu) (r : Reg) (v : Word) :
    (c.setReg r v).biosReserved1 = c.biosReserved1 := by
  unfold Cpu.setReg; split <;> rfl
@[simp] theorem Cpu.setReg_biosReserved2 (c : Cpu) (r : Reg) (v : Word) :
    (c.setReg r v).biosReserved2 = c.biosReserved2 := by
  unfold Cpu.setReg; split <;> rfl
@[simp] theorem Cpu.setReg_signalled (c : Cpu) (r : Reg) (v : Word) :
    (c.setReg r v).signalled = c.signalled := by
  unfold Cpu.setReg; split <;> rfl

/-! ## A TLB slot is written -/

@[simp] theorem Cpu.tlbSet_prid (c : Cpu) (i : TlbIx) (e : TlbEntry) : (c.tlbSet i e).prid = c.prid := rfl
@[simp] theorem Cpu.tlbSet_gpr (c : Cpu) (i : TlbIx) (e : TlbEntry) : (c.tlbSet i e).gpr = c.gpr := rfl
@[simp] theorem Cpu.tlbSet_hi (c : Cpu) (i : TlbIx) (e : TlbEntry) : (c.tlbSet i e).hi = c.hi := rfl
@[simp] theorem Cpu.tlbSet_lo (c : Cpu) (i : TlbIx) (e : TlbEntry) : (c.tlbSet i e).lo = c.lo := rfl
@[simp] theorem Cpu.tlbSet_pc (c : Cpu) (i : TlbIx) (e : TlbEntry) : (c.tlbSet i e).pc = c.pc := rfl
@[simp] theorem Cpu.tlbSet_npc (c : Cpu) (i : TlbIx) (e : TlbEntry) : (c.tlbSet i e).npc = c.npc := rfl
@[simp] theorem Cpu.tlbSet_inDelay (c : Cpu) (i : TlbIx) (e : TlbEntry) :
    (c.tlbSet i e).inDelay = c.inDelay := rfl
@[simp] theorem Cpu.tlbSet_index (c : Cpu) (i : TlbIx) (e : TlbEntry) : (c.tlbSet i e).index = c.index := rfl
@[simp] theorem Cpu.tlbSet_random (c : Cpu) (i : TlbIx) (e : TlbEntry) :
    (c.tlbSet i e).random = c.random := rfl
@[simp] theorem Cpu.tlbSet_entryLo (c : Cpu) (i : TlbIx) (e : TlbEntry) :
    (c.tlbSet i e).entryLo = c.entryLo := rfl
@[simp] theorem Cpu.tlbSet_badVAddr (c : Cpu) (i : TlbIx) (e : TlbEntry) :
    (c.tlbSet i e).badVAddr = c.badVAddr := rfl
@[simp] theorem Cpu.tlbSet_timer (c : Cpu) (i : TlbIx) (e : TlbEntry) : (c.tlbSet i e).timer = c.timer := rfl
@[simp] theorem Cpu.tlbSet_entryHi (c : Cpu) (i : TlbIx) (e : TlbEntry) :
    (c.tlbSet i e).entryHi = c.entryHi := rfl
@[simp] theorem Cpu.tlbSet_status (c : Cpu) (i : TlbIx) (e : TlbEntry) :
    (c.tlbSet i e).status = c.status := rfl
@[simp] theorem Cpu.tlbSet_cause (c : Cpu) (i : TlbIx) (e : TlbEntry) : (c.tlbSet i e).cause = c.cause := rfl
@[simp] theorem Cpu.tlbSet_epc (c : Cpu) (i : TlbIx) (e : TlbEntry) : (c.tlbSet i e).epc = c.epc := rfl
@[simp] theorem Cpu.tlbSet_tlb (c : Cpu) (i : TlbIx) (e : TlbEntry) :
    (c.tlbSet i e).tlb = c.tlb.set i.toNat e i.isLt := rfl
@[simp] theorem Cpu.tlbSet_power (c : Cpu) (i : TlbIx) (e : TlbEntry) : (c.tlbSet i e).power = c.power := rfl
@[simp] theorem Cpu.tlbSet_pltPending (c : Cpu) (i : TlbIx) (e : TlbEntry) :
    (c.tlbSet i e).pltPending = c.pltPending := rfl
@[simp] theorem Cpu.tlbSet_loadDelay (c : Cpu) (i : TlbIx) (e : TlbEntry) :
    (c.tlbSet i e).loadDelay = c.loadDelay := rfl
@[simp] theorem Cpu.tlbSet_ipiQueue (c : Cpu) (i : TlbIx) (e : TlbEntry) :
    (c.tlbSet i e).ipiQueue = c.ipiQueue := rfl
@[simp] theorem Cpu.tlbSet_tpr (c : Cpu) (i : TlbIx) (e : TlbEntry) : (c.tlbSet i e).tpr = c.tpr := rfl
@[simp] theorem Cpu.tlbSet_biosReserved1 (c : Cpu) (i : TlbIx) (e : TlbEntry) :
    (c.tlbSet i e).biosReserved1 = c.biosReserved1 := rfl
@[simp] theorem Cpu.tlbSet_biosReserved2 (c : Cpu) (i : TlbIx) (e : TlbEntry) :
    (c.tlbSet i e).biosReserved2 = c.biosReserved2 := rfl
@[simp] theorem Cpu.tlbSet_signalled (c : Cpu) (i : TlbIx) (e : TlbEntry) :
    (c.tlbSet i e).signalled = c.signalled := rfl

/-! ## Return from an exception -/

@[simp] theorem Cpu.returnFromException_prid (c : Cpu) : (c.returnFromException).prid = c.prid := rfl
@[simp] theorem Cpu.returnFromException_gpr (c : Cpu) : (c.returnFromException).gpr = c.gpr := rfl
@[simp] theorem Cpu.returnFromException_hi (c : Cpu) : (c.returnFromException).hi = c.hi := rfl
@[simp] theorem Cpu.returnFromException_lo (c : Cpu) : (c.returnFromException).lo = c.lo := rfl
@[simp] theorem Cpu.returnFromException_pc (c : Cpu) : (c.returnFromException).pc = c.pc := rfl
@[simp] theorem Cpu.returnFromException_npc (c : Cpu) : (c.returnFromException).npc = c.npc := rfl
@[simp] theorem Cpu.returnFromException_inDelay (c : Cpu) : (c.returnFromException).inDelay = c.inDelay := rfl
@[simp] theorem Cpu.returnFromException_index (c : Cpu) : (c.returnFromException).index = c.index := rfl
@[simp] theorem Cpu.returnFromException_random (c : Cpu) : (c.returnFromException).random = c.random := rfl
@[simp] theorem Cpu.returnFromException_entryLo (c : Cpu) : (c.returnFromException).entryLo = c.entryLo := rfl
@[simp] theorem Cpu.returnFromException_badVAddr (c : Cpu) :
    (c.returnFromException).badVAddr = c.badVAddr := rfl
@[simp] theorem Cpu.returnFromException_timer (c : Cpu) : (c.returnFromException).timer = c.timer := rfl
@[simp] theorem Cpu.returnFromException_entryHi (c : Cpu) : (c.returnFromException).entryHi = c.entryHi := rfl
@[simp] theorem Cpu.returnFromException_status (c : Cpu) :
    (c.returnFromException).status = popKuIe c.status := rfl
@[simp] theorem Cpu.returnFromException_cause (c : Cpu) : (c.returnFromException).cause = c.cause := rfl
@[simp] theorem Cpu.returnFromException_epc (c : Cpu) : (c.returnFromException).epc = c.epc := rfl
@[simp] theorem Cpu.returnFromException_tlb (c : Cpu) : (c.returnFromException).tlb = c.tlb := rfl
@[simp] theorem Cpu.returnFromException_power (c : Cpu) : (c.returnFromException).power = c.power := rfl
@[simp] theorem Cpu.returnFromException_pltPending (c : Cpu) :
    (c.returnFromException).pltPending = c.pltPending := rfl
@[simp] theorem Cpu.returnFromException_loadDelay (c : Cpu) :
    (c.returnFromException).loadDelay = c.loadDelay := rfl
@[simp] theorem Cpu.returnFromException_ipiQueue (c : Cpu) :
    (c.returnFromException).ipiQueue = c.ipiQueue := rfl
@[simp] theorem Cpu.returnFromException_tpr (c : Cpu) : (c.returnFromException).tpr = c.tpr := rfl
@[simp] theorem Cpu.returnFromException_biosReserved1 (c : Cpu) :
    (c.returnFromException).biosReserved1 = c.biosReserved1 := rfl
@[simp] theorem Cpu.returnFromException_biosReserved2 (c : Cpu) :
    (c.returnFromException).biosReserved2 = c.biosReserved2 := rfl
@[simp] theorem Cpu.returnFromException_signalled (c : Cpu) :
    (c.returnFromException).signalled = c.signalled := rfl

/-! ## Exception entry, the processor -/

@[simp] theorem Cpu.enter_prid (c : Cpu) (e : Exc) : (c.enter e).prid = c.prid := rfl
@[simp] theorem Cpu.enter_gpr (c : Cpu) (e : Exc) : (c.enter e).gpr = c.gpr := rfl
@[simp] theorem Cpu.enter_hi (c : Cpu) (e : Exc) : (c.enter e).hi = c.hi := rfl
@[simp] theorem Cpu.enter_lo (c : Cpu) (e : Exc) : (c.enter e).lo = c.lo := rfl
@[simp] theorem Cpu.enter_pc (c : Cpu) (e : Exc) : (c.enter e).pc = vectorOf c.status e.isRefill := rfl
@[simp] theorem Cpu.enter_npc (c : Cpu) (e : Exc) : (c.enter e).npc = vectorOf c.status e.isRefill + 4 := rfl
@[simp] theorem Cpu.enter_inDelay (c : Cpu) (e : Exc) : (c.enter e).inDelay = false := rfl
@[simp] theorem Cpu.enter_index (c : Cpu) (e : Exc) : (c.enter e).index = c.index := rfl
@[simp] theorem Cpu.enter_random (c : Cpu) (e : Exc) : (c.enter e).random = c.random := rfl
@[simp] theorem Cpu.enter_entryLo (c : Cpu) (e : Exc) : (c.enter e).entryLo = c.entryLo := rfl
@[simp] theorem Cpu.enter_badVAddr (c : Cpu) (e : Exc) :
    (c.enter e).badVAddr = e.badAddr.getD c.badVAddr := rfl
@[simp] theorem Cpu.enter_timer (c : Cpu) (e : Exc) : (c.enter e).timer = c.timer := rfl
@[simp] theorem Cpu.enter_status (c : Cpu) (e : Exc) : (c.enter e).status = pushKuIe c.status := rfl
@[simp] theorem Cpu.enter_cause (c : Cpu) (e : Exc) : (c.enter e).cause = causeAfter c e := rfl
@[simp] theorem Cpu.enter_epc (c : Cpu) (e : Exc) :
    (c.enter e).epc = if c.inDelay then c.pc - 4 else c.pc := rfl
@[simp] theorem Cpu.enter_tlb (c : Cpu) (e : Exc) : (c.enter e).tlb = c.tlb := rfl
@[simp] theorem Cpu.enter_power (c : Cpu) (e : Exc) : (c.enter e).power = c.power := rfl
@[simp] theorem Cpu.enter_pltPending (c : Cpu) (e : Exc) : (c.enter e).pltPending = c.pltPending := rfl
@[simp] theorem Cpu.enter_loadDelay (c : Cpu) (e : Exc) : (c.enter e).loadDelay = none := rfl
@[simp] theorem Cpu.enter_ipiQueue (c : Cpu) (e : Exc) : (c.enter e).ipiQueue = c.ipiQueue := rfl
@[simp] theorem Cpu.enter_tpr (c : Cpu) (e : Exc) : (c.enter e).tpr = c.tpr := rfl
@[simp] theorem Cpu.enter_biosReserved1 (c : Cpu) (e : Exc) :
    (c.enter e).biosReserved1 = c.biosReserved1 := rfl
@[simp] theorem Cpu.enter_biosReserved2 (c : Cpu) (e : Exc) :
    (c.enter e).biosReserved2 = c.biosReserved2 := rfl
@[simp] theorem Cpu.enter_signalled (c : Cpu) (e : Exc) : (c.enter e).signalled = c.signalled := rfl

/-! ## General registers -/

@[simp] theorem Cpu.reg_zero (c : Cpu) : c.reg 0 = 0 := rfl

/-- Reading after writing a general register (R21). -/
theorem Cpu.reg_setReg (c : Cpu) (r q : Reg) (v : Word) :
    (c.setReg r v).reg q = if q = r ∧ q ≠ 0 then v else c.reg q := by
  by_cases hq : q = 0
  · rw [if_neg (fun h => h.2 hq), hq]; rfl
  · by_cases hr : r = 0
    · rw [if_neg (fun h => hq (h.1.trans hr)), Cpu.setReg, if_pos hr]
    · rw [Cpu.setReg, if_neg hr]
      by_cases h : q = r
      · subst h; rw [if_pos ⟨rfl, hq⟩, Cpu.reg, if_neg hq]; exact Vector.getElem_set_self _
      · rw [if_neg (fun e => h e.1), Cpu.reg, Cpu.reg, if_neg hq, if_neg hq]
        exact Vector.getElem_set_ne r.isLt q.isLt (fun e => h (BitVec.eq_of_toNat_eq e.symm))

@[simp] theorem Cpu.reg_advance (c : Cpu) (r : Reg) : c.advance.reg r = c.reg r := rfl
@[simp] theorem Cpu.reg_branch (c : Cpu) (t : Option Word) (r : Reg) : (c.branch t).reg r = c.reg r := rfl
@[simp] theorem Cpu.reg_enter (c : Cpu) (e : Exc) (r : Reg) : (c.enter e).reg r = c.reg r := rfl

/-- Outside a load delay slot a source register reads its value (R233). -/
theorem Cpu.src_of_none (c : Cpu) (r : Reg) (h : c.loadDelay = none) : c.src r = c.reg r := by
  simp [Cpu.src, h]

/-- A source register reads its value or, in a load delay slot, the loaded register's old value (R233). -/
theorem Cpu.src_cases (c : Cpu) (r : Reg) :
    c.src r = c.reg r ∨ ∃ d, c.loadDelay = some d ∧ r = d.reg ∧ c.src r = d.old := by
  unfold Cpu.src
  cases h : c.loadDelay with
  | none => exact .inl rfl
  | some d =>
    by_cases hc : r ≠ 0 ∧ r = d.reg ∧ Config.freeBit d.draw = true
    · exact .inr ⟨d, rfl, hc.2.1, if_pos hc⟩
    · exact .inl (if_neg hc)

/-- The vectors (R341). -/
theorem vectorOf_cases (st : Word) (r : Bool) :
    vectorOf st r = if statusBEV st then (if r then 0x1FC00100#32 else 0x1FC00180#32)
      else (if r then 0#32 else 0x80#32) := by
  unfold vectorOf
  cases statusBEV st <;> cases r <;> rfl

end Sys2Proof.Machine
end

