-- ==== Sys2Proof/Laws/Results.lean ====
section
/-! SUPPORT. What each way of completing an instruction does, said once in the terms of Sys2Proof/Safety.lean. -/

namespace Sys2Proof.Machine

theorem Cpu.SamePrivate.refl (c : Cpu) : c.SamePrivate c := by simp [Cpu.SamePrivate]

theorem Cpu.SameControl.refl (c : Cpu) : c.SameControl c := by
  simp [Cpu.SameControl, Cpu.SamePrivate, Cpu.SameException]

theorem State.SameMachine.refl (s : State) : s.SameMachine s := by simp [State.SameMachine]

/-- Writing a general register changes nothing but general registers. -/
theorem Cpu.sameControl_setReg (c : Cpu) (r : Reg) (v : Word) : c.SameControl (c.setReg r v) := by
  simp [Cpu.SameControl, Cpu.SamePrivate, Cpu.SameException]

theorem Cpu.wroteReg_setReg (c : Cpu) (r : Reg) (v : Word) : c.WroteReg (c.setReg r v) r v :=
  fun q => c.reg_setReg r q v

/-- What `retireReg` does (R26, R21). -/
theorem State.retireReg_result (s : State) (r : Reg) (v : Word) : s.RegisterResult (s.retireReg r v) r v := by
  refine ⟨fun q => ?_, ?_, ?_, ?_, fun _ => rfl, ?_⟩
  · rw [State.retireReg_cpu, Cpu.reg_setReg]; rfl
  · simp [Cpu.Retired, Cpu.Advanced]
  · simp [Cpu.SameHiLo]
  · simp [Cpu.SameControl, Cpu.SamePrivate, Cpu.SameException]
  · simp [State.SameMachine]

/-- What `retireHiLo` does. -/
theorem State.retireHiLo_result (s : State) (h l : Word) : s.HiLoResult (s.retireHiLo h l) h l := by
  refine ⟨rfl, rfl, fun _ => rfl, ⟨⟨rfl, rfl, rfl⟩, rfl⟩, ?_, fun _ => rfl, ?_⟩
  · simp [Cpu.SameControl, Cpu.SamePrivate, Cpu.SameException]
  · simp [State.SameMachine]

/-- What `retireLoad` does: the value is written, and the next instruction may still read the old one (R233). -/
theorem State.retireLoad_result (s : State) (r : Reg) (v : Word) : s.LoadResult (s.retireLoad r v) r v := by
  have hreg : ∀ q, (s.retireLoad r v).cpu.reg q = if q = r ∧ q ≠ 0 then v else s.cpu.reg q := fun q =>
    (s.cpu.advance.reg_setReg r q v)
  refine ⟨hreg, ?_, ?_, ?_, fun q => ?_, fun _ => rfl, ?_⟩
  · simp [Cpu.Advanced]
  · simp [Cpu.SameHiLo]
  · simp [Cpu.SameControl, Cpu.SamePrivate, Cpu.SameException]
  · rcases (s.retireLoad r v).cpu.src_cases q with h | ⟨d, hd, hq, hs⟩
    · exact .inl h
    · rw [State.retireLoad_cpu_loadDelay] at hd
      by_cases hr : r = 0
      · rw [if_pos hr] at hd; exact absurd hd (by simp)
      · rw [if_neg hr] at hd
        injection hd with hd
        subst hd
        subst hq
        exact .inr ⟨rfl, hs⟩
  · simp [State.SameMachine]

/-- What `retireBranch` does (R240). -/
theorem State.retireBranch_result (s : State) (t : Option Word) : s.BranchResult (s.retireBranch t) t none := by
  refine ⟨fun _ => rfl, ⟨rfl, rfl, rfl, rfl⟩, ⟨rfl, rfl⟩, ?_, fun _ => rfl, ?_⟩
  · simp [Cpu.SameControl, Cpu.SamePrivate, Cpu.SameException]
  · simp [State.SameMachine]

/-- What `retireLink` does (R243). -/
theorem State.retireLink_result (s : State) (r : Reg) (t : Option Word) :
    s.BranchResult (s.retireLink r t) t (some (r, s.cpu.pc + 8)) := by
  refine ⟨fun q => ?_, ?_, ?_, ?_, fun _ => rfl, ?_⟩
  · rw [State.retireLink_cpu, Cpu.reg_setReg]; rfl
  · simp [Cpu.Branched]
  · simp [Cpu.SameHiLo]
  · simp [Cpu.SameControl, Cpu.SamePrivate, Cpu.SameException]
  · simp [State.SameMachine]

/-- What an instruction that only updates the current processor's control state leaves alone. -/
theorem State.retire_with_cpu (s : State) (c : Cpu) (hr : c.gpr = s.cpu.gpr) (hh : c.hi = s.cpu.hi)
    (hl : c.lo = s.cpu.lo) (hn : c.npc = s.cpu.npc) :
    s.cpu.SameRegs ({ s with cpu := c } : State).retire.cpu ∧
    s.cpu.SameHiLo ({ s with cpu := c } : State).retire.cpu ∧
    s.cpu.Retired ({ s with cpu := c } : State).retire.cpu ∧
    s.SameMem ({ s with cpu := c } : State).retire ∧ s.SameMachine ({ s with cpu := c } : State).retire := by
  refine ⟨fun r => ?_, ⟨?_, ?_⟩, ⟨⟨?_, ?_, rfl⟩, rfl⟩, fun _ => rfl, ?_⟩
  · simp [Cpu.reg, hr]
  · simpa using hh
  · simpa using hl
  · simpa using hn
  · simp [hn]
  · simp [State.SameMachine]

/-! ## The outcome of an access -/

@[simp] theorem State.finish_ok (s t : State) : s.finish (.ok t) = .next t := rfl
@[simp] theorem State.finish_exc (s : State) (e : Exc) : s.finish (.exc e) = .next (s.enter e) := rfl
@[simp] theorem State.finish_refuse (s : State) (r : Refusal) : s.finish (.refuse r) = .refused r := rfl
@[simp] theorem Res.map_ok {α β : Type} (f : α → β) (a : α) : Res.map f (.ok a) = .ok (f a) := rfl
@[simp] theorem Res.map_exc {α β : Type} (f : α → β) (e : Exc) : Res.map f (.exc e) = .exc e := rfl
@[simp] theorem Res.map_refuse {α β : Type} (f : α → β) (r : Refusal) : Res.map f (.refuse r) = .refuse r := rfl

/-- A next state of `finish` is the computed state or the entry of an exception. -/
theorem State.finish_next (s t : State) (r : Res State) (h : s.finish r = .next t) :
    r = .ok t ∨ ∃ e, r = .exc e ∧ t = s.enter e := by
  cases r with
  | ok a => injection h with h; exact .inl (by rw [h])
  | exc e => injection h with h; exact .inr ⟨e, rfl, h.symm⟩
  | refuse r => cases h

/-- Loads of readable memory (R96). -/
theorem State.memLoad_readable (s : State) (w : Width) (ea : Word) (pa : Nat) (ht : s.Reaches .load w ea pa)
    (hr : s.Readable pa) : s.memLoad w ea = .ok (s.mem.readWidth s.cfg.bigEndian w pa, s) := by
  obtain ⟨p, hp, rfl⟩ := ht
  unfold State.memLoad State.physLoad
  rw [hp]
  rcases hr with h | h | h <;> simp [h]

/-- The aligned word around a readable byte (R228). -/
theorem State.memLoadAround_readable (s : State) (ea : Word) (pa : Nat) (ht : s.Reaches .load .byte ea pa)
    (hr : s.Readable (alignedAddr pa)) :
    s.memLoadAround ea = .ok (s.mem.readWord s.cfg.bigEndian (alignedAddr pa)) := by
  obtain ⟨p, hp, rfl⟩ := ht
  unfold State.memLoadAround State.physLoadAround
  rw [hp]
  rcases hr with h | h | h <;> simp [h]

/-- Stores to writable memory (R96). -/
theorem State.memStore_writable (s : State) (w : Width) (ea v : Word) (pa : Nat) (ht : s.Reaches .store w ea pa)
    (hr : s.Writable pa) :
    s.memStore w ea v = .ok { s.retire with mem := s.mem.writeWidth s.cfg.bigEndian w pa v } := by
  obtain ⟨p, hp, rfl⟩ := ht
  unfold State.memStore State.physStore
  rw [hp]
  rcases hr with h | h <;> simp [h]

/-- Lane stores to writable memory (R235). -/
theorem State.memStoreAround_writable (s : State) (ea v : Word) (lanes : Nat → Bool) (pa : Nat)
    (ht : s.Reaches .store .byte ea pa) (hr : s.Writable (alignedAddr pa)) :
    s.memStoreAround ea v lanes =
      .ok { s.retire with mem := s.mem.writeLanes s.cfg.bigEndian (alignedAddr pa) v lanes } := by
  obtain ⟨p, hp, rfl⟩ := ht
  unfold State.memStoreAround State.physStoreAround
  rw [hp]
  rcases hr with h | h <;> simp [h]

/-- Everything a load can do: a value and a state that differs only in the free values drawn (R105), an exception, or
the refusal of a narrow access to a register (R95). -/
theorem State.memLoad_cases (s : State) (w : Width) (ea : Word) :
    (∃ v n, s.memLoad w ea = .ok (v, s.drawn n)) ∨ (∃ e, s.memLoad w ea = .exc e) ∨
      s.memLoad w ea = .refuse .narrowRegisterAccess := by
  unfold State.memLoad
  cases translateAddr s.cfg s.cpu .load w ea with
  | error e => exact .inr (.inl ⟨e, rfl⟩)
  | ok p =>
    simp only [State.physLoad]
    cases regionOf s.cfg p.toNat with
    | ram => exact .inl ⟨_, 0, rfl⟩
    | biosData => exact .inl ⟨_, 0, rfl⟩
    | rom => exact .inl ⟨_, 0, rfl⟩
    | undefined => exact .inr (.inl ⟨_, rfl⟩)
    | register r =>
      dsimp only
      split
      · left
        have hd : ∃ v n, s.readRegister r = (v, s.drawn n) := by
          cases r <;> first | exact ⟨_, 0, rfl⟩ | exact ⟨_, 1, rfl⟩ | skip
          · simp only [State.readRegister, State.readIrt]
            split
            · exact ⟨_, 0, rfl⟩
            · exact ⟨_, 1, rfl⟩
          · simp only [State.readRegister, State.readInbox]
            split
            · exact ⟨_, 1, rfl⟩
            · exact ⟨_, 0, rfl⟩
        obtain ⟨v, n, h⟩ := hd
        exact ⟨v, n, by rw [h]⟩
      · exact .inr (.inr rfl)

end Sys2Proof.Machine
end

