-- ==== Sys2Proof/Laws/Bios.lean ====
section
/-! SUPPORT. What the operations that the contracts of Sys2Proof/Machine/Bios.lean share can do. -/

namespace Sys2Proof.Machine

/-- The four service codes are distinct (R313). -/
theorem serviceCode_injective {v w : BiosService} (h : serviceCode v = serviceCode w) : v = w := by
  have hi := Config.biosCodeOrder.injective
  cases v <;> cases w <;> first | rfl | exact absurd (hi h) (by decide)

/-- A kernel-mode BREAK with a service's code in `a0` reaches that service (R313). -/
theorem State.biosService_of_code (s : State) (v : BiosService) (h : s.cpu.reg 4 = serviceCode v)
    (hc : s.cpu.cause.extractLsb' 2 5 = 9) (hm : s.cpu.status.getLsbD 3 = false) : s.biosService = some v := by
  have hv : (fun w => s.cpu.reg 4 == serviceCode w) = fun w => decide (v = w) := by
    funext w
    rw [h, Bool.eq_iff_iff]
    simp only [beq_iff_eq, decide_eq_true_eq]
    exact ⟨serviceCode_injective, fun e => e ▸ rfl⟩
  unfold State.biosService
  rw [if_pos ⟨hc, hm⟩, hv]
  cases v <;> decide

@[simp] theorem State.goTo_pc (s : State) (pc : Word) : (s.goTo pc).cpu.pc = pc := rfl
@[simp] theorem State.goTo_npc (s : State) (pc : Word) : (s.goTo pc).cpu.npc = pc + 4 := rfl
@[simp] theorem State.goTo_inDelay (s : State) (pc : Word) : (s.goTo pc).cpu.inDelay = false := rfl
@[simp] theorem State.goTo_reg (s : State) (pc : Word) (r : Reg) : (s.goTo pc).cpu.reg r = s.cpu.reg r := rfl
@[simp] theorem State.goTo_status (s : State) (pc : Word) : (s.goTo pc).cpu.status = s.cpu.status := rfl
@[simp] theorem State.goTo_cfg (s : State) (pc : Word) : (s.goTo pc).cfg = s.cfg := rfl
@[simp] theorem State.clobberHiLo_cfg (s : State) : s.clobberHiLo.cfg = s.cfg := rfl
@[simp] theorem State.clobberHiLo_mem (s : State) : s.clobberHiLo.mem = s.mem := rfl
@[simp] theorem State.clobberHiLo_status (s : State) : s.clobberHiLo.cpu.status = s.cpu.status := rfl
@[simp] theorem State.goTo_mem (s : State) (pc : Word) : (s.goTo pc).mem = s.mem := rfl
@[simp] theorem State.clobber_mem (s : State) (rs : List Reg) : (s.clobber rs).mem = s.mem := rfl
@[simp] theorem State.clobber_cfg (s : State) (rs : List Reg) : (s.clobber rs).cfg = s.cfg := rfl

/-- The loop that PANIC and HALT end in lies inside `EXEC_ROM`, at a word (R316). -/
theorem execAddress_range (cfg : Config) (k : Nat) (h : 4 ≤ cfg.execSize) (hv : cfg.valid = true) :
    (execAddress cfg k).toNat + 4 ≤ cfg.execSize ∧ (execAddress cfg k).toNat % 4 = 0 := by
  simp only [Config.valid, Bool.and_eq_true, decide_eq_true_eq] at hv
  have h1 : k % max 1 (cfg.execSize / 4) < max 1 (cfg.execSize / 4) := Nat.mod_lt _ (by omega)
  have h2 : max 1 (cfg.execSize / 4) = cfg.execSize / 4 := by omega
  have h3 : cfg.execSize ≤ 0x0FFFF000 ∧ cfg.execSize % 4 = 0 := hv.1.1.1.2
  rw [h2] at h1
  simp only [execAddress, h2, BitVec.toNat_ofNat]
  omega

/-! ## `_start` -/

/-- In kernel mode the header of a kernel's program is readable, wherever the TLB floor is (R91, R110, R471). -/
theorem memLoad_header (s : State) (hv : s.cfg.valid = true) (hk : s.cpu.status.getLsbD 1 = false) :
    s.memLoad .word 0x200010A8#32 = .ok (s.mem.readWord s.cfg.bigEndian 0x200010A8, s) := by
  simp only [Config.valid, Bool.and_eq_true, decide_eq_true_eq] at hv
  have hr : 8 ≤ s.cfg.ramFrames := hv.1.1.1.1.2.1
  have hx : s.cfg.execSize ≤ 0x0FFFF000 := hv.1.1.1.2.1
  have hb : 0x1FC00000 + s.cfg.bootSize ≤ 0x20000000 := hv.1.1.2.1
  have htop : 0x20008000 ≤ s.cfg.ramTop := by unfold Config.ramTop Config.ramSize; omega
  refine State.memLoad_readable s .word _ 0x200010A8 ⟨0x200010A8#32, ?_, rfl⟩ (Or.inl ?_)
  · have hm : mapped s.cfg 0x200010A8#32 = false := by
      unfold mapped
      split
      · rfl
      · rfl
      · rfl
      · exact decide_eq_false (by show ¬ s.cfg.ramTop ≤ 0x200010A8; omega)
    simpa [translateAddr, hm, statusKUc, Width.aligned] using hk
  · unfold regionOf
    rw [if_neg (by omega), if_neg (by omega), if_neg (by omega), if_pos (by omega)]

/-- Loading general registers changes no other register. -/
theorem Cpu.loadRegs_frame (c : Cpu) (word : Nat → Word) (k : Nat) (rs : List Reg) :
    (c.loadRegs word k rs).status = c.status ∧ (c.loadRegs word k rs).cause = c.cause := by
  induction rs generalizing c k with
  | nil => exact ⟨rfl, rfl⟩
  | cons r rs ih =>
    have h := ih (c.setReg r (word k)) (k + 1)
    rwa [Cpu.setReg_status, Cpu.setReg_cause] at h

@[simp] theorem State.clobber_status (s : State) (rs : List Reg) : (s.clobber rs).cpu.status = s.cpu.status :=
  (Cpu.loadRegs_frame _ _ _ _).1

@[simp] theorem State.clobberControl_status (s : State) : s.clobberControl.cpu.status = s.cpu.status := rfl
@[simp] theorem State.clobberControl_mem (s : State) : s.clobberControl.mem = s.mem := rfl
@[simp] theorem State.startClobbered_status (s : State) (f : StartFile) :
    (s.startClobbered f).cpu.status = s.cpu.status := by
  unfold State.startClobbered
  cases f <;>
    simp only [State.clobberControl_status, State.clobberHiLo_status, State.clobber_status]
@[simp] theorem State.startClobbered_mem (s : State) (f : StartFile) : (s.startClobbered f).mem = s.mem := by
  unfold State.startClobbered
  cases f <;> simp only [State.clobberControl_mem, State.clobberHiLo_mem, State.clobber_mem]

/-- Where `_start` can read the program's header, it reaches `main` (R464, R468): what is changed and how. -/
theorem State.startUp_ok {s s1 : State} {f : StartFile} {main gp : Word}
    (h : s.memLoad .word (startHeader f + 0xA8#32) = .ok (gp, s1)) :
    ∃ t, s.startUp f main = .next t ∧ t.cpu.pc = main ∧ t.cpu.npc = main + 4 ∧ t.cpu.inDelay = false ∧
      t.cpu.status = s1.cpu.status ∧ t.cpu.reg 28 = gp ∧ (∃ k, t.cpu.reg 31 = insideStart f k) ∧ t.mem = s1.mem ∧
      (f = .crtso → t.cpu.reg 29 = 0x20001000#32 ∧ t.cpu.reg 25 = main) := by
  unfold State.startUp
  rw [h]
  refine ⟨_, rfl, rfl, rfl, rfl, ?_, ?_, ⟨Config.freeNat (s1.startClobbered f).draws, ?_⟩, ?_, ?_⟩
  · cases f <;> simp [State.goTo, Cpu.startRegs]
  · simp [Cpu.reg_setReg]
  · simp only [State.goTo_reg, Cpu.reg_setReg]
    rfl
  · rw [State.goTo_mem]
    exact s1.startClobbered_mem f
  · rintro rfl
    simp [Cpu.reg_setReg, Cpu.startRegs]

@[simp] theorem State.ticksPass_cfg (s : State) : s.ticksPass.cfg = s.cfg := rfl
@[simp] theorem State.ticksPass_status (s : State) : s.ticksPass.cpu.status = s.cpu.status := rfl
@[simp] theorem State.ticksPass_mem (s : State) : s.ticksPass.mem = s.mem := rfl

@[simp] theorem State.bootstrap_cfg (s : State) : s.bootstrap.cfg = s.cfg := by
  unfold State.bootstrap
  simp only [State.ticksPass_cfg, State.goTo_cfg, State.clobberHiLo_cfg, State.clobber_cfg]
@[simp] theorem State.bootstrap_status (s : State) :
    s.bootstrap.cpu.status = mergeBits 0x400000#32 s.cpu.status 0 := by
  unfold State.bootstrap
  simp only [State.ticksPass_status, State.goTo_status]

/-- The kernel at the first instruction of `main` after a boot with the default ROMs (R464). -/
theorem State.bootToMain_result (s : State) (main : Word) (hv : s.cfg.valid = true)
    (hs : s.cpu.status = 0x10400000#32) :
    ∃ t, s.bootToMain main = .next t ∧ t.cpu.status = 0x10000000#32 ∧ t.cpu.pc = main ∧ t.cpu.reg 29 = 0x20001000#32 ∧
      t.cpu.reg 25 = main ∧ t.cpu.reg 28 = s.bootstrap.mem.readWord s.cfg.bigEndian 0x200010A8 ∧
      t.mem = s.bootstrap.mem ∧ ∃ k, t.cpu.reg 31 = insideStart .crtso k := by
  have h1 : s.bootstrap.cpu.status = 0x10000000#32 := by
    rw [State.bootstrap_status, hs]; decide
  have h2 : s.bootstrap.memLoad .word (startHeader .crtso + 0xA8#32) =
      .ok (s.bootstrap.mem.readWord s.cfg.bigEndian 0x200010A8, s.bootstrap) := by
    have h := memLoad_header s.bootstrap (by rw [s.bootstrap_cfg]; exact hv) (by rw [h1]; decide)
    rw [s.bootstrap_cfg] at h
    exact h
  obtain ⟨t, ht, hp, -, -, hst, hgp, hra, hm, hc⟩ := State.startUp_ok (main := main) h2
  exact ⟨t, ht, hst.trans h1, hp, (hc rfl).1, (hc rfl).2, hgp, hm, hra⟩

/-- The exception code that an entry records (R340). -/
theorem causeAfter_code (c : Cpu) (e : Exc) (h : e.copNumber = none) : (causeAfter c e).extractLsb' 2 5 = e.code := by
  unfold causeAfter
  rw [h]
  dsimp only
  generalize mergeBits 0x80000000#32 c.cause _ = x
  unfold mergeBits
  ext i hi
  interval_cases i <;> simp

/-- KUp after an entry is KUc before it (R32). -/
theorem pushKuIe_kup (st : Word) : (pushKuIe st).getLsbD 3 = st.getLsbD 1 := by
  simp [pushKuIe, mergeBits]

/-- What a service call does: a BREAK with the service's code in `a0`, in the mode of the caller (R313). -/
theorem State.callService_cpu (s : State) (v : BiosService) (args : List Word) :
    ∃ c : Cpu, (s.callService v args).cpu = c.enter .bp ∧ c.status = s.cpu.status ∧ c.reg 4 = serviceCode v := by
  have h4 : ∀ (c : Cpu) (word : Nat → Word),
      (c.loadRegs word 0 (([4, 5, 6, 7] : List Reg).take (args.length + 1))).reg 4 = word 0 := by
    intro c word
    rcases args with _ | ⟨a, _ | ⟨b, _ | ⟨d, l⟩⟩⟩ <;> simp [Cpu.loadRegs, Cpu.reg_setReg]
  unfold State.callService State.enter State.inLibrary
  exact ⟨_, rfl, (Cpu.loadRegs_frame _ _ _ _).1.trans (s.clobber_status _), h4 _ _⟩

/-- A kernel-mode call of LDST, LDCXT, PANIC or HALT reaches its service (R313). -/
theorem State.callService_reaches (s : State) (v : BiosService) (args : List Word)
    (hk : s.cpu.status.getLsbD 1 = false) : (s.callService v args).biosService = some v := by
  obtain ⟨c, hc, hs, h4⟩ := s.callService_cpu v args
  refine State.biosService_of_code _ v ?_ ?_ ?_ <;> rw [hc]
  · rw [Cpu.reg_enter, h4]
  · rw [Cpu.enter_cause]
    exact causeAfter_code c .bp rfl
  · rw [Cpu.enter_status, pushKuIe_kup, hs, hk]

@[simp] theorem State.inStart_pc (s : State) (f : StartFile) :
    (s.inStart f).cpu.pc = insideStart f (Config.freeNat s.draws) := rfl
@[simp] theorem State.inStart_status (s : State) (f : StartFile) : (s.inStart f).cpu.status = s.cpu.status := rfl
@[simp] theorem State.inStart_reg (s : State) (f : StartFile) (r : Reg) : (s.inStart f).cpu.reg r = s.cpu.reg r := rfl

/-- The end of a U-proc's `main`: a SYSCALL inside `_start` with the exit value in `a0`, in the mode of the caller
(R468). -/
theorem State.afterMain_crti (s : State) :
    ∃ c : Cpu, (s.afterMain .crti).cpu = c.enter .sys ∧ c.status = s.cpu.status ∧ c.reg 4 = Config.exitCode ∧
      ∃ k, c.pc = insideStart .crti k := by
  generalize ht : (s.clobber callerSaved).clobberHiLo = t
  have hs : t.cpu.status = s.cpu.status := by rw [← ht, State.clobberHiLo_status, State.clobber_status]
  have h : (s.afterMain .crti).cpu =
      (State.inStart { t with cpu := t.cpu.setReg 4 Config.exitCode } .crti).cpu.enter .sys := by
    rw [← ht]; rfl
  refine ⟨_, h, ?_, ?_, _, State.inStart_pc _ _⟩
  · rw [State.inStart_status, Cpu.setReg_status, hs]
  · rw [State.inStart_reg, Cpu.reg_setReg, if_pos ⟨rfl, by decide⟩]

end Sys2Proof.Machine
end

