-- ==== Sys2Proof/Laws/Encoding.lean ====
section
/-! SUPPORT. The fields of the instruction formats (spec/30_encoding.md R141): each field of a word put together from
fields is that field, and a word is put together from its fields. -/

namespace Sys2Proof

/-- Bit `i` of an R-format word (R141). -/
theorem rWord_bit (op : BitVec 6) (rs rt rd : Reg) (sa : BitVec 5) (f : BitVec 6) (i : Nat) :
    (rWord op rs rt rd sa f).getLsbD i =
      if i < 6 then f.getLsbD i else if i < 11 then sa.getLsbD (i - 6) else if i < 16 then rd.getLsbD (i - 11)
      else if i < 21 then rt.getLsbD (i - 16) else if i < 26 then rs.getLsbD (i - 21)
      else op.getLsbD (i - 26) := by
  have h : (rWord op rs rt rd sa f).getLsbD i =
      BitVec.getLsbD (w := 6 + 5 + 5 + 5 + 5 + 6) (op ++ rs ++ rt ++ rd ++ sa ++ f) i := rfl
  rw [h]
  simp only [BitVec.getLsbD_append]
  by_cases h1 : i < 6
  · simp [h1]
  by_cases h2 : i < 11
  · simp [h1, h2, show i - 6 < 5 by omega]
  by_cases h3 : i < 16
  · simp [h1, h2, h3, show ¬ i - 6 < 5 by omega, show i - 6 - 5 < 5 by omega]; congr 1
  by_cases h4 : i < 21
  · simp [h1, h2, h3, h4, show ¬ i - 6 < 5 by omega, show ¬ i - 6 - 5 < 5 by omega,
      show i - 6 - 5 - 5 < 5 by omega]; congr 1
  by_cases h5 : i < 26
  · simp [h1, h2, h3, h4, h5, show ¬ i - 6 < 5 by omega, show ¬ i - 6 - 5 < 5 by omega,
      show ¬ i - 6 - 5 - 5 < 5 by omega, show i - 6 - 5 - 5 - 5 < 5 by omega]; congr 1
  · simp [h1, h2, h3, h4, h5, show ¬ i - 6 < 5 by omega, show ¬ i - 6 - 5 < 5 by omega,
      show ¬ i - 6 - 5 - 5 < 5 by omega, show ¬ i - 6 - 5 - 5 - 5 < 5 by omega]; congr 1

/-- Bit `i` of an I-format word (R141). -/
theorem iWord_bit (op : BitVec 6) (rs rt : Reg) (imm : Half) (i : Nat) :
    (iWord op rs rt imm).getLsbD i =
      if i < 16 then imm.getLsbD i else if i < 21 then rt.getLsbD (i - 16)
      else if i < 26 then rs.getLsbD (i - 21) else op.getLsbD (i - 26) := by
  have h : (iWord op rs rt imm).getLsbD i =
      BitVec.getLsbD (w := 6 + 5 + 5 + 16) (op ++ rs ++ rt ++ imm) i := rfl
  rw [h]
  simp only [BitVec.getLsbD_append]
  by_cases h1 : i < 16
  · simp [h1]
  by_cases h2 : i < 21
  · simp [h1, h2, show i - 16 < 5 by omega]
  by_cases h3 : i < 26
  · simp [h1, h2, h3, show ¬ i - 16 < 5 by omega, show i - 16 - 5 < 5 by omega]; congr 1
  · simp [h1, h2, h3, show ¬ i - 16 < 5 by omega, show ¬ i - 16 - 5 < 5 by omega]; congr 1

/-- Bit `i` of a J-format word (R141). -/
theorem jWord_bit (op : BitVec 6) (target : BitVec 26) (i : Nat) :
    (jWord op target).getLsbD i = if i < 26 then target.getLsbD i else op.getLsbD (i - 26) := by
  have h : (jWord op target).getLsbD i = BitVec.getLsbD (w := 6 + 26) (op ++ target) i := rfl
  rw [h]
  simp only [BitVec.getLsbD_append]

/-- Bit `i` of a SYSCALL or BREAK word (R143). -/
theorem codeWord_bit (code : BitVec 20) (f : BitVec 6) (i : Nat) :
    (codeWord code f).getLsbD i = if i < 6 then f.getLsbD i else if i < 26 then code.getLsbD (i - 6) else false := by
  have h : (codeWord code f).getLsbD i = BitVec.getLsbD (w := 6 + 20 + 6) ((0 : BitVec 6) ++ code ++ f) i := rfl
  rw [h]
  simp only [BitVec.getLsbD_append]
  by_cases h1 : i < 6
  · simp [h1]
  by_cases h2 : i < 26
  · simp [h1, h2, show i - 6 < 20 by omega]
  · simp [h1, h2, show ¬ i - 6 < 20 by omega]

/-! ## Fields of a word put together -/

@[simp] theorem fOp_rWord (op : BitVec 6) (rs rt rd : Reg) (sa : BitVec 5) (f : BitVec 6) :
    fOp (rWord op rs rt rd sa f) = op := by
  apply BitVec.eq_of_getLsbD_eq
  intro i hi
  simp only [fOp, BitVec.getLsbD_extractLsb', rWord_bit]
  rw [if_neg (by omega), if_neg (by omega), if_neg (by omega), if_neg (by omega), if_neg (by omega)]
  simp [hi]

@[simp] theorem fRs_rWord (op : BitVec 6) (rs rt rd : Reg) (sa : BitVec 5) (f : BitVec 6) :
    fRs (rWord op rs rt rd sa f) = rs := by
  apply BitVec.eq_of_getLsbD_eq
  intro i hi
  simp only [fRs, BitVec.getLsbD_extractLsb', rWord_bit]
  rw [if_neg (by omega), if_neg (by omega), if_neg (by omega), if_neg (by omega), if_pos (by omega)]
  simp [hi]

@[simp] theorem fRt_rWord (op : BitVec 6) (rs rt rd : Reg) (sa : BitVec 5) (f : BitVec 6) :
    fRt (rWord op rs rt rd sa f) = rt := by
  apply BitVec.eq_of_getLsbD_eq
  intro i hi
  simp only [fRt, BitVec.getLsbD_extractLsb', rWord_bit]
  rw [if_neg (by omega), if_neg (by omega), if_neg (by omega), if_pos (by omega)]
  simp [hi]

@[simp] theorem fRd_rWord (op : BitVec 6) (rs rt rd : Reg) (sa : BitVec 5) (f : BitVec 6) :
    fRd (rWord op rs rt rd sa f) = rd := by
  apply BitVec.eq_of_getLsbD_eq
  intro i hi
  simp only [fRd, BitVec.getLsbD_extractLsb', rWord_bit]
  rw [if_neg (by omega), if_neg (by omega), if_pos (by omega)]
  simp [hi]

@[simp] theorem fSa_rWord (op : BitVec 6) (rs rt rd : Reg) (sa : BitVec 5) (f : BitVec 6) :
    fSa (rWord op rs rt rd sa f) = sa := by
  apply BitVec.eq_of_getLsbD_eq
  intro i hi
  simp only [fSa, BitVec.getLsbD_extractLsb', rWord_bit]
  rw [if_neg (by omega), if_pos (by omega)]
  simp [hi]

@[simp] theorem fFunct_rWord (op : BitVec 6) (rs rt rd : Reg) (sa : BitVec 5) (f : BitVec 6) :
    fFunct (rWord op rs rt rd sa f) = f := by
  apply BitVec.eq_of_getLsbD_eq
  intro i hi
  simp only [fFunct, BitVec.getLsbD_extractLsb', rWord_bit]
  rw [if_pos (by omega)]
  simp [hi]

@[simp] theorem fOp_iWord (op : BitVec 6) (rs rt : Reg) (imm : Half) : fOp (iWord op rs rt imm) = op := by
  apply BitVec.eq_of_getLsbD_eq
  intro i hi
  simp only [fOp, BitVec.getLsbD_extractLsb', iWord_bit]
  rw [if_neg (by omega), if_neg (by omega), if_neg (by omega)]
  simp [hi]

@[simp] theorem fRs_iWord (op : BitVec 6) (rs rt : Reg) (imm : Half) : fRs (iWord op rs rt imm) = rs := by
  apply BitVec.eq_of_getLsbD_eq
  intro i hi
  simp only [fRs, BitVec.getLsbD_extractLsb', iWord_bit]
  rw [if_neg (by omega), if_neg (by omega), if_pos (by omega)]
  simp [hi]

@[simp] theorem fRt_iWord (op : BitVec 6) (rs rt : Reg) (imm : Half) : fRt (iWord op rs rt imm) = rt := by
  apply BitVec.eq_of_getLsbD_eq
  intro i hi
  simp only [fRt, BitVec.getLsbD_extractLsb', iWord_bit]
  rw [if_neg (by omega), if_pos (by omega)]
  simp [hi]

@[simp] theorem fImm_iWord (op : BitVec 6) (rs rt : Reg) (imm : Half) : fImm (iWord op rs rt imm) = imm := by
  apply BitVec.eq_of_getLsbD_eq
  intro i hi
  simp only [fImm, BitVec.getLsbD_extractLsb', iWord_bit]
  rw [if_pos (by omega)]
  simp [hi]

@[simp] theorem fOp_jWord (op : BitVec 6) (target : BitVec 26) : fOp (jWord op target) = op := by
  apply BitVec.eq_of_getLsbD_eq
  intro i hi
  simp only [fOp, BitVec.getLsbD_extractLsb', jWord_bit]
  rw [if_neg (by omega)]
  simp [hi]

@[simp] theorem fTarget_jWord (op : BitVec 6) (target : BitVec 26) : fTarget (jWord op target) = target := by
  apply BitVec.eq_of_getLsbD_eq
  intro i hi
  simp only [fTarget, BitVec.getLsbD_extractLsb', jWord_bit]
  rw [if_pos (by omega)]
  simp [hi]

@[simp] theorem fOp_codeWord (code : BitVec 20) (f : BitVec 6) : fOp (codeWord code f) = 0 := by
  apply BitVec.eq_of_getLsbD_eq
  intro i hi
  simp only [fOp, BitVec.getLsbD_extractLsb', codeWord_bit]
  rw [if_neg (by omega), if_neg (by omega)]
  simp [hi]

@[simp] theorem fFunct_codeWord (code : BitVec 20) (f : BitVec 6) : fFunct (codeWord code f) = f := by
  apply BitVec.eq_of_getLsbD_eq
  intro i hi
  simp only [fFunct, BitVec.getLsbD_extractLsb', codeWord_bit]
  rw [if_pos (by omega)]
  simp [hi]

@[simp] theorem fCode_codeWord (code : BitVec 20) (f : BitVec 6) : fCode (codeWord code f) = code := by
  apply BitVec.eq_of_getLsbD_eq
  intro i hi
  simp only [fCode, BitVec.getLsbD_extractLsb', codeWord_bit]
  rw [if_neg (by omega), if_pos (by omega)]
  simp [hi]

/-! ## A word from its fields -/

theorem rWord_fields (w : Word) : rWord (fOp w) (fRs w) (fRt w) (fRd w) (fSa w) (fFunct w) = w := by
  apply BitVec.eq_of_getLsbD_eq
  intro i hi
  simp only [rWord_bit, fOp, fRs, fRt, fRd, fSa, fFunct, BitVec.getLsbD_extractLsb']
  by_cases h0 : i < 6
  · simp [h0]
  by_cases h1 : i < 11
  · simp [h0, h1, show i - 6 < 5 by omega, show 6 + (i - 6) = i by omega]
  by_cases h2 : i < 16
  · simp [h0, h1, h2, show i - 11 < 5 by omega, show 11 + (i - 11) = i by omega]
  by_cases h3 : i < 21
  · simp [h0, h1, h2, h3, show i - 16 < 5 by omega, show 16 + (i - 16) = i by omega]
  by_cases h4 : i < 26
  · simp [h0, h1, h2, h3, h4, show i - 21 < 5 by omega, show 21 + (i - 21) = i by omega]
  · simp [h0, h1, h2, h3, h4, show i - 26 < 6 by omega, show 26 + (i - 26) = i by omega]

theorem iWord_fields (w : Word) : iWord (fOp w) (fRs w) (fRt w) (fImm w) = w := by
  apply BitVec.eq_of_getLsbD_eq
  intro i hi
  simp only [iWord_bit, fOp, fRs, fRt, fImm, BitVec.getLsbD_extractLsb']
  by_cases h0 : i < 16
  · simp [h0]
  by_cases h1 : i < 21
  · simp [h0, h1, show i - 16 < 5 by omega, show 16 + (i - 16) = i by omega]
  by_cases h2 : i < 26
  · simp [h0, h1, h2, show i - 21 < 5 by omega, show 21 + (i - 21) = i by omega]
  · simp [h0, h1, h2, show i - 26 < 6 by omega, show 26 + (i - 26) = i by omega]

theorem jWord_fields (w : Word) : jWord (fOp w) (fTarget w) = w := by
  apply BitVec.eq_of_getLsbD_eq
  intro i hi
  simp only [jWord_bit, fOp, fTarget, BitVec.getLsbD_extractLsb']
  by_cases h0 : i < 26
  · simp [h0]
  · simp [h0, show i - 26 < 6 by omega, show 26 + (i - 26) = i by omega]

theorem codeWord_fields (w : Word) (h : fOp w = 0) : codeWord (fCode w) (fFunct w) = w := by
  apply BitVec.eq_of_getLsbD_eq
  intro i hi
  simp only [codeWord_bit, fFunct, fCode, BitVec.getLsbD_extractLsb']
  by_cases h0 : i < 6
  · simp [h0]
  by_cases h1 : i < 26
  · simp [h0, h1, show i - 6 < 20 by omega, show 6 + (i - 6) = i by omega]
  · have hb := congrArg (fun v : BitVec 6 => v.getLsbD (i - 26)) h
    simp only [fOp, BitVec.getLsbD_extractLsb', show 26 + (i - 26) = i by omega, show i - 26 < 6 by omega] at hb
    simp [h0, h1] at hb ⊢
    exact hb

end Sys2Proof
end

