-- ==== Sys2Proof/Laws/Quiet.lean ====
section
/-! SUPPORT. What the devices, the interrupt router and the host's data events can do, said once: `State.Quiet`.
They change memory in canonical form, the devices, the interrupt requests and the free values drawn, and of a processor
only the note that an interrupt was signalled. -/

namespace Sys2Proof.Machine

/-- The same processor but for the note that an interrupt was signalled. -/
def Cpu.SameButSignal (c d : Cpu) : Prop := { c with signalled := d.signalled } = d

theorem Cpu.SameButSignal.refl (c : Cpu) : c.SameButSignal c := rfl

theorem Cpu.SameButSignal.trans {c d e : Cpu} (h : c.SameButSignal d) (k : d.SameButSignal e) :
    c.SameButSignal e := by
  unfold Cpu.SameButSignal at *
  rw [← k, ← h]

/-- Nothing changed but memory (in canonical form), devices, interrupt requests, signals and free values drawn. -/
structure State.Quiet (s t : State) : Prop where
  cpu : s.cpu.SameButSignal t.cpu
  todo : List.Forall₂ Cpu.SameButSignal s.todo t.todo
  done : List.Forall₂ Cpu.SameButSignal s.done t.done
  mem : s.mem.wf = true → t.mem.wf = true
  cfg : t.cfg = s.cfg
  tod : t.tod = s.tod
  intervalTimer : t.intervalTimer = s.intervalTimer
  bootPc : t.bootPc = s.bootPc
  bootSp : t.bootSp = s.bootSp
  powerOffAt : t.powerOffAt = s.powerOffAt
  stopped : t.stopped = s.stopped
  inputs : t.inputs = s.inputs
  now : t.now = s.now

theorem forall₂_same_refl (l : List Cpu) : List.Forall₂ Cpu.SameButSignal l l :=
  List.forall₂_same.2 fun c _ => Cpu.SameButSignal.refl c

theorem forall₂_same_trans {l m n : List Cpu} (h : List.Forall₂ Cpu.SameButSignal l m)
    (k : List.Forall₂ Cpu.SameButSignal m n) : List.Forall₂ Cpu.SameButSignal l n := by
  induction h generalizing n with
  | nil => cases k; exact .nil
  | cons h _ ih => cases k with | cons k ks => exact .cons (h.trans k) (ih ks)

theorem State.Quiet.refl (s : State) : s.Quiet s :=
  ⟨.refl _, forall₂_same_refl _, forall₂_same_refl _, id, rfl, rfl, rfl, rfl, rfl, rfl, rfl, rfl, rfl⟩

theorem State.Quiet.trans {s t u : State} (h : s.Quiet t) (k : t.Quiet u) : s.Quiet u :=
  ⟨h.cpu.trans k.cpu, forall₂_same_trans h.todo k.todo, forall₂_same_trans h.done k.done, fun w => k.mem (h.mem w),
    k.cfg.trans h.cfg, k.tod.trans h.tod, k.intervalTimer.trans h.intervalTimer, k.bootPc.trans h.bootPc,
    k.bootSp.trans h.bootSp, k.powerOffAt.trans h.powerOffAt, k.stopped.trans h.stopped, k.inputs.trans h.inputs,
    k.now.trans h.now⟩

/-! ## The interrupt router -/

theorem State.quiet_drawn (s : State) (n : Nat) : s.Quiet (s.drawn n) :=
  ⟨.refl _, forall₂_same_refl _, forall₂_same_refl _, id, rfl, rfl, rfl, rfl, rfl, rfl, rfl, rfl, rfl⟩

/-- An update of every processor that only sets signals. -/
theorem State.quiet_mapCpus (s : State) (f : Cpu → Cpu) (hf : ∀ c : Cpu, c.SameButSignal (f c)) :
    s.Quiet (s.mapCpus f) := by
  have hl : ∀ l : List Cpu, List.Forall₂ Cpu.SameButSignal l (l.map f) := fun l => by
    induction l with
    | nil => exact .nil
    | cons c l ih => exact .cons (hf c) ih
  exact ⟨hf _, hl _, hl _, id, rfl, rfl, rfl, rfl, rfl, rfl, rfl, rfl, rfl⟩

theorem State.quiet_signal (s : State) (e : Nat) (r : IntReq) : s.Quiet (s.signal e r) :=
  s.quiet_mapCpus _ fun c => by split <;> rfl

theorem State.quiet_signalRises (s old : State) : s.Quiet (s.signalRises old) :=
  s.quiet_mapCpus _ fun c => by split <;> rfl

theorem State.quiet_chooseOwner (s : State) (e : Nat) : s.Quiet (s.chooseOwner e).2 := by
  unfold State.chooseOwner
  dsimp only
  split
  · exact .refl s
  · exact .refl s
  · exact s.quiet_drawn 1

theorem State.quiet_raiseReq (s : State) (e : Nat) (r : IntReq) : s.Quiet (s.raiseReq e r).2 := by
  unfold State.raiseReq
  split
  · exact s.quiet_signal e r
  · split
    · exact (s.quiet_chooseOwner e).trans (State.quiet_signal _ _ _)
    · exact s.quiet_signal _ _

/-- A raised request is pending. -/
theorem State.raiseReq_pending (s : State) (e : Nat) (r : IntReq) : (s.raiseReq e r).1.pending = true := by
  unfold State.raiseReq
  split
  · assumption
  · split <;> rfl

theorem State.quiet_rerouteReq (s : State) (e : Nat) (r : IntReq) : s.Quiet (s.rerouteReq e r).2 := by
  unfold State.rerouteReq
  split
  · exact .refl s
  · split
    · split
      · exact .refl s
      · exact s.quiet_chooseOwner e
    · exact .refl s

/-! ## Updates of devices and requests -/

theorem State.quiet_setDevice (s : State) (n : Nat) (d : Device) : s.Quiet (s.setDevice n d) :=
  ⟨.refl _, forall₂_same_refl _, forall₂_same_refl _, id, rfl, rfl, rfl, rfl, rfl, rfl, rfl, rfl, rfl⟩

theorem State.quiet_itReq (s : State) (r : IntReq) : s.Quiet { s with itReq := r } :=
  ⟨.refl _, forall₂_same_refl _, forall₂_same_refl _, id, rfl, rfl, rfl, rfl, rfl, rfl, rfl, rfl, rfl⟩

theorem State.quiet_irt (s : State) (v : Vector Word 48) : s.Quiet { s with irt := v } :=
  ⟨.refl _, forall₂_same_refl _, forall₂_same_refl _, id, rfl, rfl, rfl, rfl, rfl, rfl, rfl, rfl, rfl⟩

theorem State.quiet_dma (s : State) (a : Nat) (bs : List Byte) : s.Quiet { s with mem := s.mem.writeBytes a bs } :=
  ⟨.refl _, forall₂_same_refl _, forall₂_same_refl _, Memory.wf_writeBytes _ _ _, rfl, rfl, rfl, rfl, rfl, rfl, rfl, rfl,
    rfl⟩

theorem Device.quiet_rerouted (s : State) (e : Nat) (d : Device) : s.Quiet (d.rerouted s e).2 := by
  cases d with
  | terminal d => exact (s.quiet_rerouteReq e d.recv.req).trans (State.quiet_rerouteReq _ _ _)
  | disk d => exact s.quiet_rerouteReq e _
  | flash d => exact s.quiet_rerouteReq e _
  | network d => exact s.quiet_rerouteReq e _
  | printer d => exact s.quiet_rerouteReq e _

theorem State.quiet_reroute (s : State) (e : Nat) : s.Quiet (s.reroute e) := by
  unfold State.reroute
  split
  · exact (s.quiet_rerouteReq 0 _).trans (State.quiet_itReq _ _)
  · split
    · exact .refl s
    · split
      · exact .refl s
      · exact (Device.quiet_rerouted s e _).trans (State.quiet_setDevice _ _ _)

theorem State.quiet_writeIrt (s : State) (e : Nat) (v : Word) : s.Quiet (s.writeIrt e v) :=
  (s.quiet_irt _).trans ((State.quiet_reroute _ _).trans (State.quiet_signalRises _ _))

/-! ## Device operations -/

theorem State.quiet_finishOp (s : State) (e : Nat) (c : Ctl) (st : Word) : s.Quiet (s.finishOp e c st).2 :=
  s.quiet_raiseReq e _

theorem State.quiet_startOp (s : State) (c : Ctl) (v : Word) : s.Quiet (s.startOp c v).2 := s.quiet_drawn 1

theorem State.quiet_command (s : State) (c : Ctl) (v r : Word) : s.Quiet (s.command c v r).2 := by
  unfold State.command
  split
  · exact .refl s
  · split
    · exact s.quiet_drawn 1
    · exact (s.quiet_drawn 1).trans (State.quiet_startOp _ _ _)
  · exact s.quiet_startOp c v

theorem State.quiet_moveToRam (s : State) (b : Memory) (off : Nat) (a : Word) (m k : Nat) :
    s.Quiet (s.moveToRam b off a m k) := s.quiet_dma _ _

theorem State.quiet_blockToRam (s : State) (b : Memory) (off : Nat) (a : Word) (m : Nat) (err : Word) :
    s.Quiet (s.blockToRam b off a m err).2 := by
  unfold State.blockToRam
  dsimp only
  split
  · exact s.quiet_dma _ _
  · exact (s.quiet_dma _ _).trans (State.quiet_drawn _ _)

theorem State.quiet_ramToBlock (s : State) (b : Memory) (off : Nat) (a : Word) (m : Nat) (err : Word) :
    s.Quiet (s.ramToBlock b off a m err).2.2 := by
  unfold State.ramToBlock
  dsimp only
  split
  · exact .refl s
  · exact s.quiet_drawn 1

/-- A block written to a medium keeps the medium in canonical form. -/
theorem State.ramToBlock_wf (s : State) (b : Memory) (off : Nat) (a : Word) (m : Nat) (err : Word)
    (h : b.wf = true) : (s.ramToBlock b off a m err).2.1.wf = true := by
  unfold State.ramToBlock
  dsimp only
  split <;> exact Memory.wf_writeBytes _ _ _ h

theorem State.quiet_completeDisk (s : State) (n : Nat) (d : Disk) : s.Quiet (s.completeDisk n d).2 := by
  unfold State.completeDisk
  dsimp only
  split
  · exact s.quiet_raiseReq _ _
  · split <;> exact s.quiet_raiseReq _ _
  · split
    · exact (s.quiet_blockToRam _ _ _ _ _).trans (State.quiet_raiseReq _ _ _)
    · exact s.quiet_raiseReq _ _
  · split
    · exact (s.quiet_ramToBlock _ _ _ _ _).trans (State.quiet_raiseReq _ _ _)
    · exact s.quiet_raiseReq _ _
  · exact s.quiet_raiseReq _ _

theorem State.completeDisk_wf (s : State) (n : Nat) (d : Disk) (h : d.blocks.wf = true) :
    (s.completeDisk n d).1.blocks.wf = true := by
  unfold State.completeDisk
  dsimp only
  split
  · exact h
  · split <;> exact h
  · split <;> exact h
  · split
    · exact s.ramToBlock_wf _ _ _ _ _ h
    · exact h
  · exact h

theorem State.completeDisk_geometryOk (s : State) (n : Nat) (d : Disk) :
    (Device.disk (s.completeDisk n d).1).geometryOk = (Device.disk d).geometryOk := by
  unfold State.completeDisk
  dsimp only
  split
  · rfl
  · split <;> rfl
  · split <;> rfl
  · split <;> rfl
  · rfl

theorem State.quiet_completeFlash (s : State) (n : Nat) (d : Flash) : s.Quiet (s.completeFlash n d).2 := by
  unfold State.completeFlash
  dsimp only
  split
  · exact s.quiet_raiseReq _ _
  · split
    · exact (s.quiet_blockToRam _ _ _ _ _).trans (State.quiet_raiseReq _ _ _)
    · exact s.quiet_raiseReq _ _
  · split
    · exact (s.quiet_ramToBlock _ _ _ _ _).trans (State.quiet_raiseReq _ _ _)
    · exact s.quiet_raiseReq _ _
  · exact s.quiet_raiseReq _ _

theorem State.completeFlash_wf (s : State) (n : Nat) (d : Flash) (h : d.blocks.wf = true) :
    (s.completeFlash n d).1.blocks.wf = true := by
  unfold State.completeFlash
  dsimp only
  split
  · exact h
  · split <;> exact h
  · split
    · exact s.ramToBlock_wf _ _ _ _ _ h
    · exact h
  · exact h

theorem State.completeFlash_geometryOk (s : State) (n : Nat) (d : Flash) :
    (Device.flash (s.completeFlash n d).1).geometryOk = (Device.flash d).geometryOk := by
  unfold State.completeFlash
  dsimp only
  split
  · rfl
  · split <;> rfl
  · split <;> rfl
  · rfl

theorem State.quiet_completeNetwork (s : State) (n : Nat) (d : Network) : s.Quiet (s.completeNetwork n d).2 := by
  unfold State.completeNetwork
  dsimp only
  split
  · exact s.quiet_raiseReq _ _
  · exact (s.quiet_raiseReq _ _).trans (State.quiet_drawn _ _)
  · split
    · exact s.quiet_raiseReq _ _
    · split
      · exact (s.quiet_dma _ _).trans (State.quiet_raiseReq _ _ _)
      · exact (s.quiet_dma _ _).trans ((State.quiet_drawn _ _).trans (State.quiet_raiseReq _ _ _))
  · split <;> exact s.quiet_raiseReq _ _
  · split <;> exact s.quiet_raiseReq _ _
  · exact s.quiet_raiseReq _ _

theorem State.quiet_completePrinter (s : State) (n : Nat) (d : Printer) : s.Quiet (s.completePrinter n d).2 := by
  unfold State.completePrinter
  dsimp only
  split <;> exact s.quiet_raiseReq _ _

theorem State.quiet_completeRecv (s : State) (n : Nat) (t : Terminal) : s.Quiet (s.completeRecv n t).2 := by
  unfold State.completeRecv
  dsimp only
  split
  · exact (s.quiet_drawn 1).trans (State.quiet_raiseReq _ _ _)
  · split
    · exact .refl s
    · exact s.quiet_raiseReq _ _
  · exact s.quiet_raiseReq _ _

theorem State.quiet_completeTransm (s : State) (n : Nat) (t : Terminal) : s.Quiet (s.completeTransm n t).2 := by
  unfold State.completeTransm
  dsimp only
  split
  · exact (s.quiet_drawn 1).trans (State.quiet_raiseReq _ _ _)
  · exact s.quiet_raiseReq _ _
  · exact s.quiet_raiseReq _ _

theorem State.quiet_completeTerminal (s : State) (n : Nat) (t : Terminal) : s.Quiet (s.completeTerminal n t).2 := by
  have h1 : s.Quiet (if t.recv.due s.now then s.completeRecv n t else (t, s)).2 := by
    split
    · exact s.quiet_completeRecv n t
    · exact .refl s
  refine h1.trans ?_
  unfold State.completeTerminal
  dsimp only
  generalize (if t.recv.due s.now then s.completeRecv n t else (t, s)) = q
  split
  · exact State.quiet_completeTransm _ _ _
  · exact .refl _

theorem State.quiet_completeDevice (s : State) (n : Nat) : s.Quiet (s.completeDevice n) := by
  unfold State.completeDevice
  split
  · exact .refl s
  · split
    · exact (s.quiet_completeDisk n _).trans (State.quiet_setDevice _ _ _)
    · exact .refl s
  · split
    · exact (s.quiet_completeFlash n _).trans (State.quiet_setDevice _ _ _)
    · exact .refl s
  · split
    · exact (s.quiet_completeNetwork n _).trans (State.quiet_setDevice _ _ _)
    · exact .refl s
  · split
    · exact (s.quiet_completePrinter n _).trans (State.quiet_setDevice _ _ _)
    · exact .refl s
  · exact (s.quiet_completeTerminal n _).trans (State.quiet_setDevice _ _ _)

/-! ## Transfers under way (R124) -/

theorem State.quiet_moveWord (s : State) (b : Memory) (m : Nat) (a : Word) (x : BlockTransfer) :
    s.Quiet (s.moveWord b m a x).2.2 := by
  unfold State.moveWord
  split
  · split
    · exact s.quiet_moveToRam _ _ _ _ _
    · exact .refl s
  · exact .refl s

/-- A word moved keeps the medium in canonical form. -/
theorem State.moveWord_wf (s : State) (b : Memory) (m : Nat) (a : Word) (x : BlockTransfer) (h : b.wf = true) :
    (s.moveWord b m a x).1.wf = true := by
  unfold State.moveWord
  split
  · split
    · exact h
    · exact Memory.wf_writeBytes _ _ _ h
  · exact h

theorem State.quiet_moveDisk (s : State) (d : Disk) : s.Quiet (s.moveDisk d).2 := by
  unfold State.moveDisk
  split
  · exact .refl s
  · exact s.quiet_moveWord _ _ _ _

theorem State.moveDisk_wf (s : State) (d : Disk) (h : d.blocks.wf = true) : (s.moveDisk d).1.blocks.wf = true := by
  unfold State.moveDisk
  split
  · exact h
  · exact s.moveWord_wf _ _ _ _ h

theorem State.moveDisk_geometryOk (s : State) (d : Disk) :
    (Device.disk (s.moveDisk d).1).geometryOk = (Device.disk d).geometryOk := by
  unfold State.moveDisk
  split <;> rfl

theorem State.quiet_moveFlash (s : State) (d : Flash) : s.Quiet (s.moveFlash d).2 := by
  unfold State.moveFlash
  split
  · exact .refl s
  · exact s.quiet_moveWord _ _ _ _

theorem State.moveFlash_wf (s : State) (d : Flash) (h : d.blocks.wf = true) : (s.moveFlash d).1.blocks.wf = true := by
  unfold State.moveFlash
  split
  · exact h
  · exact s.moveWord_wf _ _ _ _ h

theorem State.moveFlash_geometryOk (s : State) (d : Flash) :
    (Device.flash (s.moveFlash d).1).geometryOk = (Device.flash d).geometryOk := by
  unfold State.moveFlash
  split <;> rfl

theorem State.quiet_moveNetwork (s : State) (d : Network) : s.Quiet (s.moveNetwork d).2 := by
  unfold State.moveNetwork
  dsimp only
  split
  · split
    · split
      · exact s.quiet_dma _ _
      · exact .refl s
    · split <;> exact .refl s
  · exact .refl s

theorem State.quiet_moveUnit (s : State) (n : Nat) : s.Quiet (s.moveUnit n) := by
  unfold State.moveUnit
  split
  · exact (s.quiet_moveDisk _).trans (State.quiet_setDevice _ _ _)
  · exact (s.quiet_moveFlash _).trans (State.quiet_setDevice _ _ _)
  · exact (s.quiet_moveNetwork _).trans (State.quiet_setDevice _ _ _)
  · exact .refl s
  · exact .refl s
  · exact .refl s

theorem State.quiet_moveUnits (s : State) (k : Nat) : s.Quiet (s.moveUnits k) := by
  induction k generalizing s with
  | zero => exact .refl s
  | succ k ih => exact ((s.quiet_drawn 1).trans (State.quiet_moveUnit _ _)).trans (ih _)

/-- Everything that can happen between two turns. -/
theorem State.quiet_dmaGap (s : State) : s.Quiet s.dmaGap := by
  unfold State.dmaGap
  split
  · exact (s.quiet_drawn 1).trans (State.quiet_moveUnits _ _)
  · exact .refl s

/-! ## Stores to device registers -/

theorem State.quiet_commandRecv (s : State) (n : Nat) (d : Terminal) (v : Word) : s.Quiet (s.commandRecv n d v) := by
  have h1 : s.Quiet (if cmdCode v = 2 then s.startReceive d v else (s.drawn 1).command d.recv v s.termReady).2 := by
    split
    · unfold State.startReceive
      split
      · exact .refl s
      · exact s.quiet_drawn 1
    · exact (s.quiet_drawn 1).trans (State.quiet_command _ _ _ _)
  exact h1.trans (State.quiet_setDevice _ _ _)

/-- Everything a store to a device register can do (R405-R409). -/
theorem State.quiet_writeDevice (s t : State) (n k : Nat) (v : Word) (h : s.writeDevice n k v = .ok t) :
    s.Quiet t := by
  have hu : ∀ (m w : Word) (u : State), s.Quiet u → refuseUpper m w (.ok u) = .ok t → s.Quiet t := by
    intro m w u hq hr
    unfold refuseUpper at hr
    split at hr
    · injection hr with hr; exact hr ▸ hq
    · cases hr
  have ho : ∀ u, s.Quiet u → (Res.ok u : Res State) = .ok t → s.Quiet t := by
    intro u hq hr; injection hr with hr; exact hr ▸ hq
  unfold State.writeDevice at h
  split at h
  · exact ho _ (.refl s) h
  · next d _ =>
    unfold State.writeDisk at h
    split at h
    · exact ho _ (.refl s) h
    · split at h
      · refine hu _ _ _ ?_ h
        exact (s.quiet_command _ _ _).trans (State.quiet_setDevice _ _ _)
      · exact ho _ (s.quiet_setDevice _ _) h
      · exact ho _ (.refl s) h
  · next d _ =>
    unfold State.writeFlash at h
    split at h
    · exact ho _ (.refl s) h
    · split at h
      · refine ho _ ?_ h
        exact (s.quiet_command _ _ _).trans (State.quiet_setDevice _ _ _)
      · exact ho _ (s.quiet_setDevice _ _) h
      · exact ho _ (.refl s) h
  · next d _ =>
    unfold State.writeNetwork at h
    split at h
    · exact ho _ (.refl s) h
    · split at h
      · refine hu _ _ _ ?_ h
        unfold State.commandNetwork
        split
        · exact (s.quiet_drawn 1).trans (State.quiet_setDevice _ _ _)
        · exact (s.quiet_drawn 1).trans ((State.quiet_command _ _ _ _).trans (State.quiet_setDevice _ _ _))
      · exact ho _ (s.quiet_setDevice _ _) h
      · exact ho _ (s.quiet_setDevice _ _) h
      · exact ho _ (.refl s) h
  · next d _ =>
    unfold State.writePrinter at h
    split at h
    · exact ho _ (.refl s) h
    · split at h
      · refine hu _ _ _ ?_ h
        exact (s.quiet_command _ _ _).trans (State.quiet_setDevice _ _ _)
      · exact ho _ (s.quiet_setDevice _ _) h
      · exact ho _ (.refl s) h
  · next d _ =>
    unfold State.writeTerminal at h
    split at h
    · split at h
      · exact ho _ (.refl s) h
      · refine hu _ _ _ ?_ h
        exact (s.quiet_commandRecv n d v)
    · split at h
      · exact ho _ (.refl s) h
      · refine hu _ _ _ ?_ h
        exact (s.quiet_drawn 1).trans ((State.quiet_command _ _ _ _).trans (State.quiet_setDevice _ _ _))
    · exact ho _ (.refl s) h

/-! ## The host's data -/

theorem State.quiet_typeChar (s : State) (dev : Nat) (ch : Byte) : s.Quiet (s.typeChar dev ch) := by
  unfold State.typeChar
  dsimp only
  split
  · split
    · split
      · exact (s.quiet_raiseReq _ _).trans (State.quiet_setDevice _ _ _)
      · exact (s.quiet_drawn 1).trans (State.quiet_setDevice _ _ _)
    · split
      · exact (s.quiet_drawn 1).trans (State.quiet_setDevice _ _ _)
      · exact s.quiet_drawn 1
  · exact .refl s

theorem State.quiet_arrivePacket (s : State) (dev : Nat) (p : List Byte) : s.Quiet (s.arrivePacket dev p) := by
  unfold State.arrivePacket
  dsimp only
  split
  · split
    · split
      · exact (s.quiet_raiseReq _ _).trans (State.quiet_setDevice _ _ _)
      · exact s.quiet_setDevice _ _
    · exact .refl s
  · exact .refl s

theorem State.quiet_failDevice (s : State) (n : Nat) (transm : Bool) (code : Nat) :
    s.Quiet (s.failDevice n transm code) := by
  unfold State.failDevice
  dsimp only
  split
  case h_5 =>
    split <;> split
    all_goals
      first
      | exact (s.quiet_drawn 1).trans ((State.quiet_raiseReq _ _ _).trans (State.quiet_setDevice _ _ _))
      | exact .refl s
  case h_6 => exact .refl s
  all_goals
    split
    · exact (s.quiet_raiseReq _ _).trans (State.quiet_setDevice _ _ _)
    · exact .refl s

theorem State.quiet_hostData (s : State) (i : HostInput) : s.Quiet (s.hostData i) := by
  unfold State.hostData
  split
  · exact s.quiet_typeChar _ _
  · exact s.quiet_arrivePacket _ _
  · exact s.quiet_failDevice _ _ _
  · exact .refl s
  · exact .refl s

theorem State.quiet_foldl {α : Type} (f : State → α → State) (hf : ∀ (s : State) (a : α), s.Quiet (f s a)) (l : List α) (s : State) :
    s.Quiet (l.foldl f s) := by
  induction l generalizing s with
  | nil => exact .refl s
  | cons a l ih => exact (hf s a).trans (ih _)

/-- Everything the device phase of a tick can do. -/
theorem State.quiet_tickDevices (s : State) : s.Quiet s.tickDevices :=
  (State.quiet_foldl _ State.quiet_completeDevice _ s).trans (State.quiet_foldl _ State.quiet_hostData _ _)

end Sys2Proof.Machine
end

