-- ==== Sys2Proof/Laws/Media.lean ====
section
/-! SUPPORT. The devices after the shared operations: what leaves the list of devices alone, and that every operation
keeps the devices well formed (`State.DevicesWf`): the media in canonical form, the geometries in
range, each device on the line of its class. -/

namespace Sys2Proof.Machine

/-- The new value of device `n` in a well-formed list of devices. -/
theorem State.devicesWf_setDevice (s : State) (n : Nat) (d : Device) (h : s.DevicesWf) (hd : d.WfAt n) :
    (s.setDevice n d).DevicesWf := by
  refine ⟨?_, ?_⟩
  · have : (s.setDevice n d).devices.map Prod.fst = s.devices.map Prod.fst := by
      simp only [State.setDevice, List.map_map]
      refine List.map_congr_left fun q _ => ?_
      simp only [Function.comp]
      split <;> rfl
    rw [this]
    exact h.1
  · intro p hp
    simp only [State.setDevice, List.mem_map] at hp
    obtain ⟨q, hq, rfl⟩ := hp
    split
    · next e => exact e ▸ hd
    · exact h.2 q hq

theorem State.devicesWf_of_eq {s t : State} (h : s.DevicesWf) (e : t.devices = s.devices) : t.DevicesWf := by
  unfold State.DevicesWf; rw [e]; exact h

/-- An installed device found by its number is well formed there. -/
theorem State.device_wf (s : State) (n : Nat) (d : Device) (h : s.DevicesWf) (hd : s.device n = some d) :
    d.WfAt n := by
  unfold State.device at hd
  have : ∀ l : List (Nat × Device), (∀ p ∈ l, p.2.WfAt p.1) → l.lookup n = some d → d.WfAt n := by
    intro l
    induction l with
    | nil => intro _ h; cases h
    | cons p l ih =>
      intro hl hk
      rw [List.lookup_cons] at hk
      split at hk
      · next e =>
        injection hk with hk
        have he : n = p.1 := by simpa using e
        exact hk ▸ he ▸ hl p (by simp)
      · exact ih (fun q hq => hl q (by simp [hq])) hk
  exact this _ h.2 hd

/-! ## Operations that leave the devices alone -/

@[simp] theorem State.signal_devices (s : State) (e : Nat) (r : IntReq) : (s.signal e r).devices = s.devices := rfl

@[simp] theorem State.chooseOwner_devices (s : State) (e : Nat) : (s.chooseOwner e).2.devices = s.devices := by
  unfold State.chooseOwner
  dsimp only
  split <;> rfl

@[simp] theorem State.raiseReq_devices (s : State) (e : Nat) (r : IntReq) :
    (s.raiseReq e r).2.devices = s.devices := by
  unfold State.raiseReq
  split
  · rfl
  · split
    · exact s.chooseOwner_devices e
    · rfl

@[simp] theorem State.rerouteReq_devices (s : State) (e : Nat) (r : IntReq) :
    (s.rerouteReq e r).2.devices = s.devices := by
  unfold State.rerouteReq
  split
  · rfl
  · split
    · split
      · rfl
      · exact s.chooseOwner_devices e
    · rfl

@[simp] theorem State.finishOp_devices (s : State) (e : Nat) (c : Ctl) (st : Word) :
    (s.finishOp e c st).2.devices = s.devices := s.raiseReq_devices e _

@[simp] theorem State.command_devices (s : State) (c : Ctl) (v r : Word) :
    (s.command c v r).2.devices = s.devices := by
  unfold State.command
  split
  · rfl
  · split <;> rfl
  · rfl

@[simp] theorem State.blockToRam_devices (s : State) (b : Memory) (off : Nat) (a : Word) (m : Nat) (err : Word) :
    (s.blockToRam b off a m err).2.devices = s.devices := by
  unfold State.blockToRam; dsimp only; split <;> rfl

@[simp] theorem State.ramToBlock_devices (s : State) (b : Memory) (off : Nat) (a : Word) (m : Nat) (err : Word) :
    (s.ramToBlock b off a m err).2.2.devices = s.devices := by
  unfold State.ramToBlock; dsimp only; split <;> rfl

@[simp] theorem State.completeDisk_devices (s : State) (n : Nat) (d : Disk) :
    (s.completeDisk n d).2.devices = s.devices := by
  unfold State.completeDisk; dsimp only
  split
  · simp
  · split <;> simp
  · split <;> simp
  · split <;> simp
  · simp

@[simp] theorem State.completeFlash_devices (s : State) (n : Nat) (d : Flash) :
    (s.completeFlash n d).2.devices = s.devices := by
  unfold State.completeFlash; dsimp only
  split
  · simp
  · split <;> simp
  · split <;> simp
  · simp

@[simp] theorem State.completeNetwork_devices (s : State) (n : Nat) (d : Network) :
    (s.completeNetwork n d).2.devices = s.devices := by
  unfold State.completeNetwork; dsimp only
  split
  · simp
  · simp
  · split
    · simp
    · split <;> simp
  · split <;> simp
  · split <;> simp
  · simp

@[simp] theorem State.completePrinter_devices (s : State) (n : Nat) (d : Printer) :
    (s.completePrinter n d).2.devices = s.devices := by
  unfold State.completePrinter; dsimp only
  split <;> simp

@[simp] theorem State.completeRecv_devices (s : State) (n : Nat) (t : Terminal) :
    (s.completeRecv n t).2.devices = s.devices := by
  unfold State.completeRecv; dsimp only
  split
  · simp
  · split <;> simp
  · simp

@[simp] theorem State.completeTransm_devices (s : State) (n : Nat) (t : Terminal) :
    (s.completeTransm n t).2.devices = s.devices := by
  unfold State.completeTransm; dsimp only
  split <;> simp

@[simp] theorem State.completeTerminal_devices (s : State) (n : Nat) (t : Terminal) :
    (s.completeTerminal n t).2.devices = s.devices := by
  have h1 : (if t.recv.due s.now then s.completeRecv n t else (t, s)).2.devices = s.devices := by
    split <;> simp
  rw [← h1]
  unfold State.completeTerminal
  dsimp only
  generalize (if t.recv.due s.now then s.completeRecv n t else (t, s)) = q
  split <;> simp

/-! ## Operations on devices keep the media -/

theorem Device.rerouted_devices (s : State) (e : Nat) (d : Device) : (d.rerouted s e).2.devices = s.devices := by
  cases d <;> simp [Device.rerouted]

theorem Device.rerouted_wf (s : State) (e n : Nat) (d : Device) (h : d.WfAt n) : (d.rerouted s e).1.WfAt n := by
  cases d <;> exact h

theorem State.devicesWf_completeDevice (s : State) (n : Nat) (h : s.DevicesWf) : (s.completeDevice n).DevicesWf := by
  have hw := fun d => s.device_wf n d h
  unfold State.completeDevice
  split
  · exact h
  · next d hd =>
    split
    · exact State.devicesWf_setDevice _ _ _ (State.devicesWf_of_eq h (s.completeDisk_devices n d))
        ⟨s.completeDisk_wf n d (hw _ hd).1, (s.completeDisk_geometryOk n d).trans (hw _ hd).2.1, (hw _ hd).2.2⟩
    · exact h
  · next d hd =>
    split
    · exact State.devicesWf_setDevice _ _ _ (State.devicesWf_of_eq h (s.completeFlash_devices n d))
        ⟨s.completeFlash_wf n d (hw _ hd).1, (s.completeFlash_geometryOk n d).trans (hw _ hd).2.1, (hw _ hd).2.2⟩
    · exact h
  · next d hd =>
    split
    · have hk := hw _ hd
      exact State.devicesWf_setDevice _ _ _ (State.devicesWf_of_eq h (s.completeNetwork_devices n d)) hk
    · exact h
  · next d hd =>
    split
    · have hk := hw _ hd
      exact State.devicesWf_setDevice _ _ _ (State.devicesWf_of_eq h (s.completePrinter_devices n d)) hk
    · exact h
  · next d hd =>
    have hk := hw _ hd
    exact State.devicesWf_setDevice _ _ _ (State.devicesWf_of_eq h (s.completeTerminal_devices n d)) hk

/-! ## Transfers under way -/

@[simp] theorem State.moveWord_devices (s : State) (b : Memory) (m : Nat) (a : Word) (x : BlockTransfer) :
    (s.moveWord b m a x).2.2.devices = s.devices := by
  unfold State.moveWord
  split
  · split <;> rfl
  · rfl

theorem State.moveDisk_devices (s : State) (d : Disk) : (s.moveDisk d).2.devices = s.devices := by
  unfold State.moveDisk
  split
  · rfl
  · exact s.moveWord_devices _ _ _ _

theorem State.moveFlash_devices (s : State) (d : Flash) : (s.moveFlash d).2.devices = s.devices := by
  unfold State.moveFlash
  split
  · rfl
  · exact s.moveWord_devices _ _ _ _

theorem State.moveNetwork_devices (s : State) (d : Network) : (s.moveNetwork d).2.devices = s.devices := by
  unfold State.moveNetwork
  dsimp only
  split
  · split <;> split <;> rfl
  · rfl

theorem State.devicesWf_moveUnit (s : State) (n : Nat) (h : s.DevicesWf) : (s.moveUnit n).DevicesWf := by
  have hw := fun d => s.device_wf n d h
  unfold State.moveUnit
  split
  · next d hd =>
    exact State.devicesWf_setDevice _ _ _ (State.devicesWf_of_eq h (s.moveDisk_devices d))
      ⟨s.moveDisk_wf d (hw _ hd).1, (s.moveDisk_geometryOk d).trans (hw _ hd).2.1, (hw _ hd).2.2⟩
  · next d hd =>
    exact State.devicesWf_setDevice _ _ _ (State.devicesWf_of_eq h (s.moveFlash_devices d))
      ⟨s.moveFlash_wf d (hw _ hd).1, (s.moveFlash_geometryOk d).trans (hw _ hd).2.1, (hw _ hd).2.2⟩
  · next d hd =>
    have hk := hw _ hd
    exact State.devicesWf_setDevice _ _ _ (State.devicesWf_of_eq h (s.moveNetwork_devices d)) hk
  · exact h
  · exact h
  · exact h

theorem State.devicesWf_moveUnits (s : State) (k : Nat) (h : s.DevicesWf) : (s.moveUnits k).DevicesWf := by
  induction k generalizing s with
  | zero => exact h
  | succ k ih => exact ih _ (State.devicesWf_moveUnit (s.drawn 1) _ h)

/-- What moves between two turns keeps the devices well formed. -/
theorem State.devicesWf_dmaGap (s : State) (h : s.DevicesWf) : s.dmaGap.DevicesWf := by
  unfold State.dmaGap
  split
  · exact State.devicesWf_moveUnits (s.drawn 1) _ h
  · exact h

/-! ## Stores, host data, reset -/

theorem State.devicesWf_reroute (s : State) (e : Nat) (h : s.DevicesWf) : (s.reroute e).DevicesWf := by
  unfold State.reroute
  split
  · exact State.devicesWf_of_eq h (s.rerouteReq_devices 0 _)
  · split
    · exact h
    · split
      · exact h
      · next d hd =>
        exact State.devicesWf_setDevice _ _ _ (State.devicesWf_of_eq h (Device.rerouted_devices s e d))
          (Device.rerouted_wf s e _ d (s.device_wf _ _ h hd))

theorem State.devicesWf_writeIrt (s : State) (e : Nat) (v : Word) (h : s.DevicesWf) : (s.writeIrt e v).DevicesWf :=
  State.devicesWf_reroute { s with irt := s.irt.setIfInBounds e v } e h

theorem State.devicesWf_writeDevice (s t : State) (n k : Nat) (v : Word) (h : s.DevicesWf)
    (ht : s.writeDevice n k v = .ok t) : t.DevicesWf := by
  have hu : ∀ (m w : Word) (u : State), u.DevicesWf → refuseUpper m w (.ok u) = .ok t → t.DevicesWf := by
    intro m w u hq hr
    unfold refuseUpper at hr
    split at hr
    · injection hr with hr; exact hr ▸ hq
    · cases hr
  have ho : ∀ u : State, u.DevicesWf → (Res.ok u : Res State) = .ok t → t.DevicesWf := by
    intro u hq hr; injection hr with hr; exact hr ▸ hq
  have hs : ∀ u : State, u.devices = s.devices → ∀ d : Device, d.WfAt n → (u.setDevice n d).DevicesWf :=
    fun u hu d hd => State.devicesWf_setDevice u n d (State.devicesWf_of_eq h hu) hd
  unfold State.writeDevice at ht
  split at ht
  · exact ho _ h ht
  · next d hd =>
    have hw := s.device_wf n _ h hd
    unfold State.writeDisk at ht
    split at ht
    · exact ho _ h ht
    · split at ht
      · refine hu _ _ _ ?_ ht; exact hs _ (s.command_devices d.ctl v stReady) (.disk _) hw
      · refine ho _ ?_ ht; exact hs s rfl (.disk _) hw
      · exact ho _ h ht
  · next d hd =>
    have hw := s.device_wf n _ h hd
    unfold State.writeFlash at ht
    split at ht
    · exact ho _ h ht
    · split at ht
      · refine ho _ ?_ ht; exact hs _ (s.command_devices d.ctl v stReady) (.flash _) hw
      · refine ho _ ?_ ht; exact hs s rfl (.flash _) hw
      · exact ho _ h ht
  · next d hd =>
    have hw := s.device_wf n _ h hd
    unfold State.writeNetwork at ht
    split at ht
    · exact ho _ h ht
    · split at ht
      · refine hu _ _ _ ?_ ht
        unfold State.commandNetwork
        split
        · exact hs (s.drawn 1) rfl (.network _) hw
        · exact hs _ ((s.drawn 1).command_devices d.ctl v stReady) (.network _) hw
      · refine ho _ ?_ ht; exact hs s rfl (.network _) hw
      · refine ho _ ?_ ht; exact hs s rfl (.network _) hw
      · exact ho _ h ht
  · next d hd =>
    have hw := s.device_wf n _ h hd
    unfold State.writePrinter at ht
    split at ht
    · exact ho _ h ht
    · split at ht
      · refine hu _ _ _ ?_ ht; exact hs _ (s.command_devices d.ctl v stReady) (.printer _) hw
      · refine ho _ ?_ ht; exact hs s rfl (.printer _) hw
      · exact ho _ h ht
  · next d hd =>
    have hw := s.device_wf n _ h hd
    unfold State.writeTerminal at ht
    split at ht
    · split at ht
      · exact ho _ h ht
      · refine hu _ _ _ ?_ ht
        have h1 : (if cmdCode v = 2 then s.startReceive d v
            else (s.drawn 1).command d.recv v s.termReady).2.devices = s.devices := by
          split
          · unfold State.startReceive; split <;> rfl
          · exact (s.drawn 1).command_devices _ _ _
        exact hs _ h1 (.terminal _) hw
    · split at ht
      · exact ho _ h ht
      · refine hu _ _ _ ?_ ht; exact hs _ ((s.drawn 1).command_devices d.transm v s.termReady) (.terminal _) hw
    · exact ho _ h ht

theorem State.devicesWf_failDevice (s : State) (n : Nat) (transm : Bool) (code : Nat) (h : s.DevicesWf) :
    (s.failDevice n transm code).DevicesWf := by
  have hd := fun d => s.device_wf n d h
  unfold State.failDevice
  dsimp only
  split
  case h_5 =>
    rename_i hn
    replace hd := hd _ hn
    split <;> split
    all_goals
      first
      | exact State.devicesWf_setDevice _ _ _ (State.devicesWf_of_eq h (State.raiseReq_devices _ _ _)) hd
      | exact h
  case h_6 => exact h
  all_goals
    rename_i hn
    replace hd := hd _ hn
    split
    · exact State.devicesWf_setDevice _ _ _ (State.devicesWf_of_eq h (s.raiseReq_devices _ _)) hd
    · exact h

theorem State.devicesWf_typeChar (s : State) (dev : Nat) (ch : Byte) (h : s.DevicesWf) :
    (s.typeChar dev ch).DevicesWf := by
  unfold State.typeChar
  dsimp only
  split
  · next t hn =>
    have hd := s.device_wf _ _ h hn
    split
    · split
      · exact State.devicesWf_setDevice _ _ _ (State.devicesWf_of_eq h (s.raiseReq_devices _ _)) hd
      · exact State.devicesWf_setDevice (s.drawn 1) _ _ h hd
    · split
      · exact State.devicesWf_setDevice (s.drawn 1) _ _ h hd
      · exact h
  · exact h

theorem State.devicesWf_hostData (s : State) (i : HostInput) (h : s.DevicesWf) : (s.hostData i).DevicesWf := by
  unfold State.hostData
  split
  · exact s.devicesWf_typeChar _ _ h
  · unfold State.arrivePacket
    dsimp only
    split
    · next d hn =>
      have hd := s.device_wf _ _ h hn
      split
      · split
        · exact State.devicesWf_setDevice _ _ _ (State.devicesWf_of_eq h (s.raiseReq_devices _ _)) hd
        · exact State.devicesWf_setDevice _ _ _ h hd
      · exact h
    · exact h
  · exact s.devicesWf_failDevice _ _ _ h
  · exact h
  · exact h

/-- The device phase of a tick keeps the devices well formed. -/
theorem State.devicesWf_tickDevices (s : State) (h : s.DevicesWf) : s.tickDevices.DevicesWf := by
  have hf : ∀ {α : Type} (f : State → α → State) (_ : ∀ (s : State) (a : α), s.DevicesWf → (f s a).DevicesWf)
      (l : List α) (s : State), s.DevicesWf → (l.foldl f s).DevicesWf := by
    intro α f hf l
    induction l with
    | nil => exact fun s h => h
    | cons a l ih => exact fun s h => ih _ (hf s a h)
  exact hf _ State.devicesWf_hostData _ _ (hf _ State.devicesWf_completeDevice _ _ h)

/-- A machine reset keeps the media and the places of the devices (R460). -/
theorem Device.wfAt_atReset (n : Nat) (d : Device) (h : d.WfAt n) : (d.atReset n).WfAt n := by
  cases d <;> exact h

theorem State.devicesWf_atReset {s t : State} (h : s.DevicesWf) (e : t.devices = devicesAtReset s.devices) :
    t.DevicesWf := by
  unfold State.DevicesWf
  rw [e]
  refine ⟨?_, fun p hp => ?_⟩
  · simpa [devicesAtReset, Function.comp_def] using h.1
  · simp only [devicesAtReset, List.mem_map] at hp
    obtain ⟨q, hq, rfl⟩ := hp
    exact Device.wfAt_atReset _ _ (h.2 q hq)

/-- What power-on installs is well formed, if the media are (R400). -/
theorem devicesWf_installed (ds : List (Nat × Device)) (h : ∀ p ∈ ds, p.2.wf = true) :
    ((installedDevices ds).map Prod.fst).Pairwise (· < ·) ∧ ∀ p ∈ installedDevices ds, p.2.WfAt p.1 := by
  have hf : ∀ (n : Nat) (p : Nat × Device), (match ds.lookup n with
      | some d => if lineOfDevice n = d.line ∧ d.geometryOk = true then some (n, d) else none
      | none => none) = some p →
      p.1 = n ∧ ds.lookup n = some p.2 ∧ lineOfDevice n = p.2.line ∧ p.2.geometryOk = true := by
    intro n p hp
    split at hp
    · next d hd =>
      split at hp
      · next hl => injection hp with hp; subst hp; exact ⟨rfl, hd, hl.1, hl.2⟩
      · cases hp
    · cases hp
  refine ⟨?_, fun p hp => ?_⟩
  · unfold installedDevices
    rw [List.map_filterMap, List.pairwise_filterMap]
    refine List.pairwise_lt_range.imp fun hab x hx y hy => ?_
    simp only [Option.map_eq_some_iff] at hx hy
    obtain ⟨p, hp, rfl⟩ := hx
    obtain ⟨q, hq, rfl⟩ := hy
    rw [(hf _ _ hp).1, (hf _ _ hq).1]
    exact hab
  · unfold installedDevices at hp
    rw [List.mem_filterMap] at hp
    obtain ⟨n, hn, hp⟩ := hp
    obtain ⟨h1, h2, h3, h4⟩ := hf _ _ hp
    have hm : ∀ l : List (Nat × Device), l.lookup n = some p.2 → ∃ q ∈ l, q.2 = p.2 := by
      intro l
      induction l with
      | nil => intro h; cases h
      | cons q l ih =>
        intro hk
        rw [List.lookup_cons] at hk
        split at hk
        · injection hk with hk; exact ⟨q, by simp, hk⟩
        · obtain ⟨r, hr, e⟩ := ih hk; exact ⟨r, by simp [hr], e⟩
    obtain ⟨q, hq, e⟩ := hm ds h2
    refine ⟨e ▸ h q hq, h4, ?_, ?_⟩
    · rw [h1]; simpa using hn
    · rw [h1]; exact h3

end Sys2Proof.Machine
end

