-- ==== Sys2Proof/Laws/Turns.lean ====
section
/-! SUPPORT. What executing an instruction leaves alone, and the bookkeeping of turns and ticks. -/

namespace Sys2Proof.Machine

/-! ## Guards -/

theorem State.withCp0_next {s t : State} {o : Out} (h : s.withCp0 o = .next t) :
    (s.cpu.cp0Usable = true ∧ o = .next t) ∨ (s.cpu.cp0Usable = false ∧ t = s.enter (.copUnusable 0)) := by
  unfold State.withCp0 at h
  split at h
  · exact .inl ⟨by assumption, h⟩
  · injection h with h
    exact .inr ⟨by simp_all, h.symm⟩

theorem State.notInDelay_next {s t : State} {o : Out} (h : s.notInDelay o = .next t) :
    s.cpu.inDelay = false ∧ o = .next t := by
  unfold State.notInDelay at h
  split at h
  · cases h
  · exact ⟨by simp_all, h⟩

theorem State.withTlbIndex_next {s t : State} {f : TlbIx → Out} (h : s.withTlbIndex f = .next t) :
    (tlbIndexOf s.cpu.index).toNat < s.cfg.tlbSize ∧ f (tlbIndexOf s.cpu.index) = .next t := by
  unfold State.withTlbIndex at h
  split at h
  · exact ⟨by assumption, h⟩
  · cases h

/-! ## The bus side of an instruction -/

/-- Nothing that a clock, the host or the configuration owns changed, and the order of turns is no longer than it
was. -/
structure State.SameBus (s t : State) : Prop where
  cfg : t.cfg = s.cfg
  tod : t.tod = s.tod
  inputs : t.inputs = s.inputs
  now : t.now = s.now
  stopped : t.stopped = s.stopped
  todo : s.todo = [] → t.todo = []

theorem State.SameBus.refl (s : State) : s.SameBus s := ⟨rfl, rfl, rfl, rfl, rfl, id⟩

theorem State.SameBus.trans {s t u : State} (h : s.SameBus t) (k : t.SameBus u) : s.SameBus u :=
  ⟨k.cfg.trans h.cfg, k.tod.trans h.tod, k.inputs.trans h.inputs, k.now.trans h.now, k.stopped.trans h.stopped,
    fun e => k.todo (h.todo e)⟩

theorem State.Quiet.sameBus {s t : State} (h : s.Quiet t) : s.SameBus t :=
  ⟨h.cfg, h.tod, h.inputs, h.now, h.stopped, fun e => by
    have k := h.todo
    rw [e] at k
    exact List.forall₂_nil_left_iff.1 k⟩

theorem State.sameBus_mapCpus (s : State) (f : Cpu → Cpu) : s.SameBus (s.mapCpus f) :=
  ⟨rfl, rfl, rfl, rfl, rfl, fun e => by simp [State.mapCpus, e]⟩

theorem State.sameBus_writeResetCpu (s : State) (v : Word) : s.SameBus (s.writeResetCpu v) :=
  ⟨rfl, rfl, rfl, rfl, rfl, fun e => by simp [State.writeResetCpu, e]⟩

theorem State.sameBus_writePower (s : State) (v : Word) : s.SameBus (s.writePower v) := by
  unfold State.writePower
  split
  · exact ⟨rfl, rfl, rfl, rfl, rfl, id⟩
  · exact .refl s

/-- What a store to a register leaves alone. -/
theorem State.sameBus_writeRegister (s t : State) (v : Word) (r : MmReg) (h : s.writeRegister v r = .ok t) :
    s.SameBus t := by
  have ho : ∀ u : State, s.SameBus u → (Res.ok u : Res State) = .ok t → s.SameBus t := by
    intro u hq hr; injection hr with hr; exact hr ▸ hq
  cases r
  case device n k => exact (s.quiet_writeDevice t n k v h).sameBus
  case irt e => exact ho _ (s.quiet_writeIrt e v).sameBus h
  case resetCpu => exact ho _ (s.sameBus_writeResetCpu v) h
  case outbox => exact ho _ (s.sameBus_mapCpus _) h
  case haltCpu => exact ho _ (s.sameBus_mapCpus _) h
  case power => exact ho _ (s.sameBus_writePower v) h
  all_goals (refine ho _ ?_ h; exact ⟨rfl, rfl, rfl, rfl, rfl, id⟩)

theorem State.sameBus_retire (s : State) : s.SameBus s.retire := ⟨rfl, rfl, rfl, rfl, rfl, id⟩

theorem State.sameBus_cpu (s : State) (c : Cpu) (m : Memory) (n : Nat) :
    s.SameBus { s with cpu := c, mem := m, draws := n } := ⟨rfl, rfl, rfl, rfl, rfl, id⟩

theorem State.sameBus_enter (s : State) (e : Exc) : s.SameBus (s.enter e) := ⟨rfl, rfl, rfl, rfl, rfl, id⟩

/-- What a store instruction leaves alone. -/
theorem State.sameBus_memStore (s t : State) (w : Width) (ea v : Word) (h : s.memStore w ea v = .ok t) :
    s.SameBus t := by
  unfold State.memStore at h
  split at h
  · cases h
  · unfold State.physStore at h
    split at h
    · injection h with h; exact h ▸ s.sameBus_cpu _ _ _
    · injection h with h; exact h ▸ s.sameBus_cpu _ _ _
    · cases h
    · split at h
      · exact s.sameBus_retire.trans (State.sameBus_writeRegister _ _ _ _ h)
      · cases h
    · cases h

theorem State.sameBus_memStoreAround (s t : State) (ea v : Word) (lanes : Nat → Bool)
    (h : s.memStoreAround ea v lanes = .ok t) : s.SameBus t := by
  unfold State.memStoreAround at h
  split at h
  · cases h
  · unfold State.physStoreAround at h
    split at h
    · injection h with h; exact h ▸ s.sameBus_cpu _ _ _
    · injection h with h; exact h ▸ s.sameBus_cpu _ _ _
    · cases h
    · cases h
    · cases h

/-- The end of an instruction that answers a next state. -/
theorem State.sameBus_finish (s t : State) (r : Res State) (hr : ∀ u, r = .ok u → s.SameBus u)
    (h : s.finish r = .next t) : s.SameBus t := by
  rcases s.finish_next t r h with h | ⟨e, _, h⟩
  · exact hr t h
  · exact h ▸ s.sameBus_enter e

theorem State.sameBus_load (s t : State) (w : Width) (ea : Word) (rt : Reg) (ext : Word → Word)
    (h : s.load w ea rt ext = .next t) : s.SameBus t := by
  refine s.sameBus_finish t _ (fun u hu => ?_) h
  rcases s.memLoad_cases w ea with ⟨v, n, e⟩ | ⟨e, he⟩ | e
  · rw [e] at hu; injection hu with hu; exact hu ▸ s.sameBus_cpu _ _ _
  · rw [he] at hu; cases hu
  · rw [e] at hu; cases hu

theorem State.sameBus_loadAround (s t : State) (ea : Word) (rt : Reg) (merge : Word → Word → Word)
    (h : s.loadAround ea rt merge = .next t) : s.SameBus t := by
  refine s.sameBus_finish t _ (fun u hu => ?_) h
  cases hm : s.memLoadAround ea with
  | ok v => rw [hm] at hu; injection hu with hu; exact hu ▸ s.sameBus_cpu _ _ _
  | exc e => rw [hm] at hu; cases hu
  | refuse r => rw [hm] at hu; cases hu

theorem State.sameBus_cas (s t : State) (rd rs rt : Reg) (h : execCas rd rs rt s = .next t) : s.SameBus t := by
  refine s.sameBus_finish t _ (fun u hu => ?_) h
  cases hm : s.memCas (s.cpu.src rs) (s.cpu.src rt) (s.cpu.src rd) with
  | ok v => rw [hm] at hu; injection hu with hu; exact hu ▸ s.sameBus_cpu _ _ _
  | exc e => rw [hm] at hu; cases hu
  | refuse r => rw [hm] at hu; cases hu

theorem State.sameBus_branchIf (s t : State) (b : Bool) (off : Half) (h : s.branchIf b off = .next t) : s.SameBus t := by
  obtain ⟨-, h⟩ := State.notInDelay_next h
  injection h with h
  exact h ▸ s.sameBus_cpu _ _ _

theorem State.sameBus_branchLinkIf (s t : State) (r : Reg) (b : Bool) (off : Half)
    (h : s.branchLinkIf r b off = .next t) : s.SameBus t := by
  obtain ⟨-, h⟩ := State.notInDelay_next h
  split at h
  · cases h
  · injection h with h; exact h ▸ s.sameBus_cpu _ _ _

theorem State.sameBus_trapOrWrite (s t : State) (rd : Reg) (n : Int) (h : s.trapOrWrite rd n = .next t) :
    s.SameBus t := by
  unfold State.trapOrWrite at h
  split at h
  · injection h with h; exact h ▸ s.sameBus_enter _
  · injection h with h; exact h ▸ s.sameBus_cpu _ _ _

/-- The bus side of every instruction. -/
theorem exec_sameBus (i : Instr) (s t : State) (h : exec i s = .next t) : s.SameBus t := by
  have hn : ∀ u : State, s.SameBus u → (.next u : Out) = .next t → s.SameBus t := by
    intro u hq hr; injection hr with hr; exact hr ▸ hq
  have hc : ∀ o : Out, (o = .next t → s.SameBus t) → s.withCp0 o = .next t → s.SameBus t := by
    intro o ho hr
    rcases State.withCp0_next hr with ⟨-, hr⟩ | ⟨-, rfl⟩
    · exact ho hr
    · exact s.sameBus_enter _
  cases i
  case add => exact s.sameBus_trapOrWrite t _ _ h
  case sub => exact s.sameBus_trapOrWrite t _ _ h
  case addi => exact s.sameBus_trapOrWrite t _ _ h
  case div =>
    refine hn _ ?_ h
    split
    · exact s.sameBus_cpu _ _ _
    · exact s.sameBus_cpu _ _ _
  case divu =>
    refine hn _ ?_ h
    split
    · exact s.sameBus_cpu _ _ _
    · exact s.sameBus_cpu _ _ _
  case lb => unfold exec execLb at h; exact s.sameBus_load t _ _ _ _ h
  case lbu => unfold exec execLbu at h; exact s.sameBus_load t _ _ _ _ h
  case lh => unfold exec execLh at h; exact s.sameBus_load t _ _ _ _ h
  case lhu => unfold exec execLhu at h; exact s.sameBus_load t _ _ _ _ h
  case lw => unfold exec execLw at h; exact s.sameBus_load t _ _ _ _ h
  case lwl => exact s.sameBus_loadAround t _ _ _ h
  case lwr => exact s.sameBus_loadAround t _ _ _ h
  case sb => exact s.sameBus_finish t _ (fun u hu => s.sameBus_memStore u _ _ _ hu) h
  case sh => exact s.sameBus_finish t _ (fun u hu => s.sameBus_memStore u _ _ _ hu) h
  case sw => exact s.sameBus_finish t _ (fun u hu => s.sameBus_memStore u _ _ _ hu) h
  case swl => exact s.sameBus_finish t _ (fun u hu => s.sameBus_memStoreAround u _ _ _ hu) h
  case swr => exact s.sameBus_finish t _ (fun u hu => s.sameBus_memStoreAround u _ _ _ hu) h
  case j => exact hn _ (s.sameBus_cpu _ _ _) (State.notInDelay_next h).2
  case jal => exact hn _ (s.sameBus_cpu _ _ _) (State.notInDelay_next h).2
  case jr => exact hn _ (s.sameBus_cpu _ _ _) (State.notInDelay_next h).2
  case jalr =>
    obtain ⟨-, h⟩ := State.notInDelay_next h
    split at h
    · cases h
    · exact hn _ (s.sameBus_cpu _ _ _) h
  case beq => exact s.sameBus_branchIf t _ _ h
  case bne => exact s.sameBus_branchIf t _ _ h
  case blez => exact s.sameBus_branchIf t _ _ h
  case bgtz => exact s.sameBus_branchIf t _ _ h
  case bltz => exact s.sameBus_branchIf t _ _ h
  case bgez => exact s.sameBus_branchIf t _ _ h
  case bltzal => exact s.sameBus_branchLinkIf t _ _ _ h
  case bgezal => exact s.sameBus_branchLinkIf t _ _ _ h
  case syscall => exact hn _ (s.sameBus_enter _) h
  case brk => exact hn _ (s.sameBus_enter _) h
  case mfc0 rt rd =>
    refine hc _ (fun h => hn _ ?_ h) h
    have hd : ∀ r, ∃ n, (s.cp0Read r).2 = s.drawn n := by
      intro r
      unfold State.cp0Read
      split <;> first | exact ⟨0, rfl⟩ | exact ⟨1, rfl⟩ | skip
      unfold State.statusRead
      split
      · exact ⟨0, rfl⟩
      · exact ⟨1, rfl⟩
    obtain ⟨n, hn⟩ := hd (s.cp0Of rd)
    rw [hn]
    exact s.sameBus_cpu _ _ _
  case mtc0 => exact hc _ (hn _ (s.sameBus_cpu _ _ _)) h
  case tlbr =>
    exact hc _ (fun h => hn _ (s.sameBus_cpu _ _ _) (State.withTlbIndex_next h).2) h
  case tlbwi =>
    exact hc _ (fun h => hn _ (s.sameBus_cpu _ _ _) (State.withTlbIndex_next h).2) h
  case tlbwr => exact hc _ (hn _ (s.sameBus_cpu _ _ _)) h
  case tlbp =>
    refine hc _ (hn _ ?_) h
    unfold State.probed
    split
    · exact s.sameBus_cpu _ _ _
    · exact s.sameBus_cpu _ _ _
  case rfe => exact hc _ (hn _ (s.sameBus_cpu _ _ _)) h
  case wait => exact hc _ (hn _ (s.sameBus_cpu _ _ _)) h
  case cas => exact s.sameBus_cas t _ _ _ h
  all_goals exact hn _ (s.sameBus_cpu _ _ _) h

/-! ## The order of turns -/

/-- `pickAt` takes one element of the list and leaves the others. -/
theorem pickAt_perm (c : Cpu) (rest : List Cpu) (k : Nat) :
    ((pickAt c rest k).1 :: (pickAt c rest k).2).Perm (c :: rest) := by
  induction rest generalizing c k with
  | nil => simp [pickAt]
  | cons d ds ih =>
    cases k with
    | zero => simp [pickAt]
    | succ n =>
      simp only [pickAt]
      exact ((List.Perm.swap _ _ _)).trans ((ih d n).cons c)

/-- The next turn goes to one of the processors; the others still have theirs to come, and nothing else changes but
the free values drawn. -/
theorem State.takeTurn_spec (s : State) (c : Cpu) (rest : List Cpu) :
    ((s.takeTurn c rest).cpu :: (s.takeTurn c rest).todo).Perm (c :: rest) ∧
    ∃ n, s.takeTurn c rest =
      { s with cpu := (s.takeTurn c rest).cpu, todo := (s.takeTurn c rest).todo, draws := n } := by
  unfold State.takeTurn
  split
  · exact ⟨.refl _, _, rfl⟩
  · exact ⟨pickAt_perm _ _ _, _, rfl⟩

/-- A new tick begins with every processor's turn to come. -/
theorem State.startTick_allCpus (s : State) : s.startTick.allCpus.Perm s.allCpus := by
  obtain ⟨h, n, e⟩ := State.takeTurn_spec { s with done := [] } s.cpu (s.todo ++ s.done)
  unfold State.startTick
  rw [State.allCpus, e]
  simpa [State.allCpus] using h

/-- In the middle of a tick no processor is lost. -/
theorem State.takeTurn_allCpus (s : State) (c : Cpu) (rest : List Cpu) (h : s.todo = c :: rest) :
    (State.takeTurn { s with done := s.cpu :: s.done } c rest).allCpus.Perm s.allCpus := by
  obtain ⟨h1, n, e⟩ := State.takeTurn_spec { s with done := s.cpu :: s.done } c rest
  rw [State.allCpus, e]
  simp only [State.allCpus, h]
  calc _ = ((State.takeTurn { s with done := s.cpu :: s.done } c rest).cpu ::
        (State.takeTurn { s with done := s.cpu :: s.done } c rest).todo) ++ (s.cpu :: s.done) := rfl
    List.Perm _ ((c :: rest) ++ (s.cpu :: s.done)) := h1.append_right _
    List.Perm _ _ := List.perm_middle

end Sys2Proof.Machine
end

