-- ==== Sys2Proof/Laws/WellFormed.lean ====
section
/-! SUPPORT. That the shared operations keep a processor and a machine well formed (`Cpu.wf`, `State.WellFormed`). -/

namespace Sys2Proof.Machine

/-! ## A processor -/

/-- `Cpu.wf` as a conjunction. -/
theorem Cpu.wf_iff (cfg : Config) (c : Cpu) : c.wf cfg = true ↔
    c.gpr[0] = 0 ∧ c.status &&& 0xE0000000#32 = 0 ∧ c.cause &&& ~~~causeStored = 0 ∧
    c.index &&& ~~~indexMask = 0 ∧ c.entryHi &&& ~~~entryHiMask = 0 ∧ c.entryLo &&& ~~~entryLoMask = 0 ∧
    (∀ i : Nat, (h : i < 64) → (c.tlb[i]).wf = true) ∧ (1 ≤ c.random.toNat ∧ c.random.toNat < cfg.tlbSize) ∧
    (c.ipiQueue.map Ipi.origin).Nodup := by
  have ht : c.tlb.toList.all TlbEntry.wf = true ↔ ∀ i : Nat, (h : i < 64) → (c.tlb[i]).wf = true := by
    rw [List.all_eq_true]
    constructor
    · intro h i hi
      exact h _ (by simp [Vector.getElem_mem])
    · intro h e he
      rw [Vector.mem_toList_iff, Vector.mem_iff_getElem] at he
      obtain ⟨i, hi, rfl⟩ := he
      exact h i hi
  simp only [Cpu.wf, Bool.and_eq_true, beq_iff_eq, decide_eq_true_eq, ht, and_assoc]

theorem Cpu.wf_setReg {cfg : Config} {c : Cpu} (r : Reg) (v : Word) (h : c.wf cfg = true) :
    (c.setReg r v).wf cfg = true := by
  rw [Cpu.wf_iff] at *
  unfold Cpu.setReg
  split
  · exact h
  · next hr =>
    refine ⟨?_, h.2⟩
    have h0 : r.toNat ≠ 0 := fun e => hr (BitVec.eq_of_toNat_eq (by simpa using e))
    simp only [Vector.getElem_set]
    rw [if_neg h0]
    exact h.1

theorem Cpu.wf_advance {cfg : Config} {c : Cpu} (h : c.wf cfg = true) : c.advance.wf cfg = true := h

theorem Cpu.wf_branch {cfg : Config} {c : Cpu} (t : Option Word) (h : c.wf cfg = true) :
    (c.branch t).wf cfg = true := h

/-- A merge of two words that are 0 where a mask is not set is so too. -/
theorem mergeBits_keeps (m k old new : Word) (ho : old &&& ~~~k = 0) (hm : m &&& ~~~k = 0) :
    mergeBits m old new &&& ~~~k = 0 := by
  ext i hi
  have h1 := congrArg (fun w : Word => w.getLsbD i) ho
  have h2 := congrArg (fun w : Word => w.getLsbD i) hm
  simp only [BitVec.getLsbD_and, BitVec.getLsbD_not, hi, decide_true, Bool.true_and, BitVec.ofNat_eq_ofNat,
    BitVec.getLsbD_zero] at h1 h2
  simp only [mergeBits, BitVec.ofNat_eq_ofNat, ← BitVec.getLsbD_eq_getElem]
  cases hk : k.getLsbD i <;> cases hM : m.getLsbD i <;> simp_all

theorem and_mask_keeps (k v : Word) : v &&& k &&& ~~~k = 0 := by
  ext i hi
  simp only [BitVec.getElem_and, BitVec.getElem_not, BitVec.getElem_zero, BitVec.ofNat_eq_ofNat]
  cases k[i] <;> simp

/-- A merge outside CU[3:1] leaves those bits 0 (R36). -/
theorem mergeBits_keeps_cu (m old new : Word) (ho : old &&& 0xE0000000#32 = 0) (hm : m &&& 0xE0000000#32 = 0) :
    mergeBits m old new &&& 0xE0000000#32 = 0 := mergeBits_keeps m 0x1FFFFFFF#32 old new ho hm

theorem causeAfter_keeps (c : Cpu) (e : Exc) (h : c.cause &&& ~~~causeStored = 0) :
    causeAfter c e &&& ~~~causeStored = 0 := by
  unfold causeAfter
  have h1 := mergeBits_keeps 0x80000000#32 causeStored c.cause (if c.inDelay then 0x80000000#32 else 0) h (by decide)
  have h2 := mergeBits_keeps 0x7C#32 causeStored _ (e.code.setWidth 32 <<< 2) h1 (by decide)
  dsimp only
  split
  · exact mergeBits_keeps _ _ _ _ h2 (by decide)
  · exact h2

theorem Cpu.wf_enter {cfg : Config} {c : Cpu} (e : Exc) (h : c.wf cfg = true) : (c.enter e).wf cfg = true := by
  rw [Cpu.wf_iff] at *
  refine ⟨h.1, ?_, causeAfter_keeps c e h.2.2.1, h.2.2.2.1, ?_, h.2.2.2.2.2⟩
  · exact mergeBits_keeps_cu _ _ _ h.2.1 (by decide)
  · simp only [Cpu.enter]
    split
    · exact mergeBits_keeps _ _ _ _ h.2.2.2.2.1 (by decide)
    · exact h.2.2.2.2.1

theorem Cpu.wf_returnFromException {cfg : Config} {c : Cpu} (h : c.wf cfg = true) :
    c.returnFromException.wf cfg = true := by
  rw [Cpu.wf_iff] at *
  exact ⟨h.1, mergeBits_keeps_cu _ _ _ h.2.1 (by decide), h.2.2⟩

theorem Cpu.wf_tlbSet {cfg : Config} {c : Cpu} (i : TlbIx) (e : TlbEntry) (h : c.wf cfg = true) (he : e.wf = true) :
    (c.tlbSet i e).wf cfg = true := by
  rw [Cpu.wf_iff] at *
  obtain ⟨h1, h2, h3, h4, h5, h6, h7, h8⟩ := h
  refine ⟨h1, h2, h3, h4, h5, h6, fun j hj => ?_, h8⟩
  simp only [Cpu.tlbSet, Vector.getElem_set]
  split
  · exact he
  · exact h7 j hj

theorem TlbEntry.wf_iff (e : TlbEntry) : e.wf = true ↔ e.hi &&& ~~~entryHiMask = 0 ∧ e.lo &&& ~~~entryLoMask = 0 := by
  simp only [TlbEntry.wf, Bool.and_eq_true, beq_iff_eq]

theorem Cpu.wf_entryHeld {cfg : Config} {c : Cpu} (h : c.wf cfg = true) : c.entryHeld.wf = true := by
  rw [Cpu.wf_iff] at h
  rw [TlbEntry.wf_iff]
  exact ⟨h.2.2.2.2.1, h.2.2.2.2.2.1⟩

theorem Cpu.wf_tlbReadAt {cfg : Config} {c : Cpu} (i : TlbIx) (h : c.wf cfg = true) :
    (c.tlbReadAt i).wf cfg = true := by
  rw [Cpu.wf_iff] at *
  obtain ⟨h1, h2, h3, h4, h5, h6, h7, h8⟩ := h
  have he := h7 i.toNat i.isLt
  rw [TlbEntry.wf_iff] at he
  exact ⟨h1, h2, h3, h4, he.1, he.2, h7, h8⟩

theorem Cpu.wf_cp0Write {cfg : Config} {c : Cpu} (v : Word) (r : Option Cp0Reg) (h : c.wf cfg = true) :
    (c.cp0Write cfg v r).wf cfg = true := by
  rw [Cpu.wf_iff] at *
  obtain ⟨h1, h2, h3, h4, h5, h6, h7⟩ := h
  unfold Cpu.cp0Write
  split
  · exact ⟨h1, h2, h3, mergeBits_keeps _ _ _ _ h4 (by decide), h5, h6, h7⟩
  · exact ⟨h1, h2, h3, h4, h5, h6, h7⟩
  · exact ⟨h1, h2, h3, h4, h5, and_mask_keeps _ _, h7⟩
  · exact ⟨h1, h2, h3, h4, h5, h6, h7⟩
  · exact ⟨h1, h2, h3, h4, h5, h6, h7⟩
  · exact ⟨h1, h2, h3, h4, and_mask_keeps _ _, h6, h7⟩
  · exact ⟨h1, and_mask_keeps 0x1FFFFFFF#32 v, h3, h4, h5, h6, h7⟩
  · exact ⟨h1, h2, mergeBits_keeps _ _ _ _ h3 (and_mask_keeps _ _), h4, h5, h6, h7⟩
  · exact ⟨h1, h2, h3, h4, h5, h6, h7⟩
  · exact ⟨h1, h2, h3, h4, h5, h6, h7⟩
  · exact ⟨h1, h2, h3, h4, h5, h6, h7⟩

theorem Cpu.wf_receiveIpi {cfg : Config} {c : Cpu} (o : CpuId) (m : Byte) (h : c.wf cfg = true) :
    (c.receiveIpi o m).wf cfg = true := by
  unfold Cpu.receiveIpi
  split
  · exact h
  · next hn =>
    rw [Cpu.wf_iff] at *
    obtain ⟨h1, h2, h3, h4, h5, h6, h7, h8, h9⟩ := h
    refine ⟨h1, h2, h3, h4, h5, h6, h7, h8, ?_⟩
    simp only [List.map_append, List.map_cons, List.map_nil]
    rw [List.nodup_append]
    refine ⟨h9, by simp, ?_⟩
    intro a ha b hb
    simp only [List.mem_singleton] at hb
    subst hb
    rintro rfl
    apply hn
    simp only [List.mem_map] at ha
    obtain ⟨i, hi, rfl⟩ := ha
    exact List.any_eq_true.2 ⟨i, hi, by simp⟩

theorem Cpu.wf_ipiTail {cfg : Config} {c : Cpu} (h : c.wf cfg = true) :
    ({ c with ipiQueue := c.ipiQueue.tail } : Cpu).wf cfg = true := by
  rw [Cpu.wf_iff] at *
  obtain ⟨h1, h2, h3, h4, h5, h6, h7, h8, h9⟩ := h
  refine ⟨h1, h2, h3, h4, h5, h6, h7, h8, ?_⟩
  simp only [List.map_tail]
  exact h9.tail

/-- A valid TLB size leaves Random a range, and fits its register (R9, R41). -/
theorem Config.valid_tlbSize {cfg : Config} (h : cfg.valid = true) : 4 ≤ cfg.tlbSize ∧ cfg.tlbSize ≤ 64 := by
  simp only [Config.valid, Bool.and_eq_true] at h
  have := h.1.1.1.1.1.2
  simp only [List.contains_iff_mem, List.mem_cons, List.not_mem_nil, or_false] at this
  omega

/-- TLBWR writes a slot of the TLB, never slot 0 (R267). -/
theorem State.randomSlot_range {s : State} (h : s.cfg.valid = true) :
    1 ≤ s.randomSlot.toNat ∧ s.randomSlot.toNat < s.cfg.tlbSize := by
  have ht := Config.valid_tlbSize h
  have hm : Config.freeNat s.draws % (s.cfg.tlbSize - 1) < s.cfg.tlbSize - 1 := Nat.mod_lt _ (by omega)
  simp only [State.randomSlot, BitVec.toNat_ofNat]
  omega

theorem Cpu.wf_atReset {cfg : Config} (h : cfg.valid = true) (p : Nat) (w : Power) :
    (Cpu.atReset cfg p w).wf cfg = true := by
  have ht := Config.valid_tlbSize h
  rw [Cpu.wf_iff]
  refine ⟨by simp [Cpu.atReset], by simp [Cpu.atReset], by simp [Cpu.atReset], by simp [Cpu.atReset],
    by simp [Cpu.atReset], by simp [Cpu.atReset], fun i hi => ?_, ?_, by simp [Cpu.atReset]⟩
  · simp only [Cpu.atReset, Vector.getElem_replicate]; decide
  · simp only [Cpu.atReset, BitVec.toNat_ofNat]; omega

theorem Cpu.wf_tick {cfg : Config} {c : Cpu} (hv : cfg.valid = true) (h : c.wf cfg = true) :
    (c.tick cfg).wf cfg = true := by
  have ht := Config.valid_tlbSize hv
  have hr : ∀ d : Cpu, d.random = c.random → d.wf cfg = true →
      ({ d with random := c.nextRandom cfg } : Cpu).wf cfg = true := by
    intro d hd hw
    obtain ⟨h1, h2, h3, h4, h5, h6, h7, h8, h9⟩ := (Cpu.wf_iff _ _).1 hw
    refine (Cpu.wf_iff _ _).2 ⟨h1, h2, h3, h4, h5, h6, h7, ?_, h9⟩
    unfold Cpu.nextRandom
    rw [hd] at h8
    split
    · simp only [BitVec.toNat_ofNat]; omega
    · next hn => bv_omega
  unfold Cpu.tick
  split
  · exact h
  · refine hr _ ?_ ?_
    · unfold Cpu.tickTimer; split <;> rfl
    · unfold Cpu.tickTimer
      split
      · exact h
      · exact h

theorem Cpu.wf_restarted {s : State} {c : Cpu} (hv : s.cfg.valid = true) : (s.restarted c).wf s.cfg = true := by
  have h : (({ Cpu.atReset s.cfg 0 .running with prid := c.prid } : Cpu).setReg 29 s.bootSp).wf s.cfg = true :=
    Cpu.wf_setReg _ _ (Cpu.wf_atReset hv 0 .running)
  obtain ⟨h1, h2, h3, h4, h5, h6, h7, h8, h9⟩ := (Cpu.wf_iff _ _).1 h
  refine (Cpu.wf_iff _ _).2 ⟨h1, h2, h3, h4, h5, h6, fun i hi => ?_, h8, h9⟩
  simp only [State.restarted, freeTlb, Vector.getElem_ofFn]
  exact (TlbEntry.wf_iff _).2 ⟨and_mask_keeps _ _, and_mask_keeps _ _⟩

/-! ## The machine -/

/-- A state that differs in its processors, each well formed and with the number it had, is well formed. -/
theorem State.wellFormed_mapCpus {s : State} (f : Cpu → Cpu) (h : s.WellFormed)
    (hf : ∀ c : Cpu, c.wf s.cfg = true → (f c).wf s.cfg = true) (hp : ∀ c : Cpu, (f c).prid = c.prid) :
    (s.mapCpus f).WellFormed := by
  obtain ⟨h1, h2, h3, h4, h5⟩ := h
  have ha : (s.mapCpus f).allCpus = s.allCpus.map f := by simp [State.mapCpus, State.allCpus]
  refine ⟨h1, h2, ?_, h4, ?_⟩
  · rw [ha]
    intro c hc
    obtain ⟨d, hd, rfl⟩ := List.mem_map.1 hc
    exact hf d (h3 d hd)
  · rw [ha, List.map_map]
    have : (Cpu.prid ∘ f) = Cpu.prid := funext hp
    rw [this]
    exact h5

/-- A state that differs in the current processor, memory and free values. -/
theorem State.wellFormed_cpu {s : State} (c : Cpu) (m : Memory) (n : Nat) (h : s.WellFormed)
    (hc : c.wf s.cfg = true) (hp : c.prid = s.cpu.prid) (hm : m.wf = true) :
    ({ s with cpu := c, mem := m, draws := n } : State).WellFormed := by
  obtain ⟨h1, h2, h3, h4, h5⟩ := h
  refine ⟨h1, hm, ?_, h4, ?_⟩
  · intro d hd
    rcases List.mem_cons.1 hd with rfl | hd
    · exact hc
    · exact h3 d (List.mem_cons_of_mem _ hd)
  · simpa [State.allCpus, hp] using h5

end Sys2Proof.Machine
end

