-- ==== Sys2Proof/Laws/Invariant.lean ====
section
/-! SUPPORT. That register stores, memory stores, exception entry, a machine reset, a tick and the end of a turn keep a
machine well formed (`State.WellFormed`). -/

namespace Sys2Proof.Machine

/-- The current processor of a well-formed machine. -/
theorem State.cpu_wf {s : State} (h : s.WellFormed) : s.cpu.wf s.cfg = true :=
  h.2.2.1 s.cpu (by simp [State.allCpus])

theorem Cpu.SameButSignal.wf {cfg} {c d : Cpu} (h : c.SameButSignal d) (hw : c.wf cfg = true) : d.wf cfg = true := by
  unfold Cpu.SameButSignal at h; rw [← h]; exact hw

theorem Cpu.SameButSignal.prid {c d : Cpu} (h : c.SameButSignal d) : d.prid = c.prid := by
  unfold Cpu.SameButSignal at h; rw [← h]

/-- The processors after operations that only set signals. -/
theorem sameButSignal_list {l m : List Cpu} (h : List.Forall₂ Cpu.SameButSignal l m) :
    m.map Cpu.prid = l.map Cpu.prid ∧
    ∀ cfg : Config, (∀ c ∈ l, c.wf cfg = true) → ∀ c ∈ m, c.wf cfg = true := by
  induction h with
  | nil => simp
  | cons h _ ih =>
    refine ⟨by simp [Cpu.SameButSignal.prid h, ih.1], fun cfg hl c hc => ?_⟩
    rcases List.mem_cons.1 hc with rfl | hc
    · exact Cpu.SameButSignal.wf h (hl _ (by simp))
    · exact ih.2 cfg (fun c hc => hl c (by simp [hc])) c hc

/-- What the devices, the router and the host's data do. -/
theorem State.Quiet.wellFormed {s t : State} (h : s.Quiet t) (hw : s.WellFormed) (hm : t.DevicesWf) : t.WellFormed := by
  obtain ⟨h1, h2, h3, h4, h5⟩ := hw
  have ha : List.Forall₂ Cpu.SameButSignal s.allCpus t.allCpus := .cons h.cpu (List.rel_append h.todo h.done)
  have hb := sameButSignal_list ha
  refine ⟨h.cfg ▸ h1, h.mem h2, ?_, hm, ?_⟩
  · rw [h.cfg]; exact hb.2 _ h3
  · rw [hb.1, h.cfg]; exact h5

/-- A store to ResetCPU (R382, R66). -/
theorem State.wellFormed_writeResetCpu {s : State} (v : Word) (h : s.WellFormed) : (s.writeResetCpu v).WellFormed := by
  obtain ⟨h1, h2, h3, h4, h5⟩ := h
  have hf : ∀ c : Cpu, c.wf s.cfg = true →
      ((fun c : Cpu => if c.namedBy s.cfg v then s.restarted c else c) c).wf s.cfg = true := by
    intro c hc; dsimp only; split
    · exact Cpu.wf_restarted (s := s) h1
    · exact hc
  have hp : ∀ c : Cpu, ((fun c : Cpu => if c.namedBy s.cfg v then s.restarted c else c) c).prid = c.prid := by
    intro c; dsimp only; split
    · simp [State.restarted]
    · rfl
  refine ⟨h1, h2, ?_, h4, ?_⟩
  · intro c hc
    simp only [State.allCpus, State.writeResetCpu, List.mem_cons, List.mem_append, List.mem_filter, List.mem_map] at hc
    rcases hc with rfl | ⟨hc, -⟩ | ⟨d, hd, rfl⟩ | ⟨d, ⟨hd, -⟩, rfl⟩
    · exact hf s.cpu (h3 s.cpu (by simp [State.allCpus]))
    · exact h3 c (by simp [State.allCpus, hc])
    · exact hf d (h3 d (by simp [State.allCpus, hd]))
    · exact Cpu.wf_restarted (s := s) (c := d) h1
  · refine List.Perm.trans ?_ h5
    have e1 : (s.done.map (fun c : Cpu => if c.namedBy s.cfg v then s.restarted c else c)).map Cpu.prid =
        s.done.map Cpu.prid := by
      rw [List.map_map]; exact List.map_congr_left fun c _ => hp c
    have e2 : ∀ l : List Cpu, (l.map s.restarted).map Cpu.prid = l.map Cpu.prid := by
      intro l; rw [List.map_map]; exact List.map_congr_left fun c _ => by simp [State.restarted]
    simp only [State.allCpus, State.writeResetCpu, List.map_cons, List.map_append, e1, e2]
    have hh := hp s.cpu
    dsimp only at hh
    rw [hh]
    refine List.Perm.cons _ ?_
    have hperm : ((s.todo.filter fun c => !c.namedBy s.cfg v) ++
        (s.todo.filter fun c => c.namedBy s.cfg v)).Perm s.todo := by
      simpa using List.filter_append_perm (fun c : Cpu => !c.namedBy s.cfg v) s.todo
    have := hperm.map Cpu.prid
    rw [List.map_append] at this
    refine (List.Perm.append_left _ List.perm_append_comm).trans ?_
    rw [← List.append_assoc]
    exact this.append_right _

/-- Every store to a memory-mapped register. -/
theorem State.wellFormed_writeRegister {s t : State} (v : Word) (r : MmReg) (hw : s.WellFormed)
    (h : s.writeRegister v r = .ok t) : t.WellFormed := by
  have ho : ∀ u : State, u.WellFormed → (Res.ok u : Res State) = .ok t → t.WellFormed := by
    intro u hq hr; injection hr with hr; exact hr ▸ hq
  have hm : s.DevicesWf := hw.2.2.2.1
  have hcpu := State.cpu_wf hw
  have hc : ∀ c : Cpu, c.wf s.cfg = true → c.prid = s.cpu.prid →
      (Res.ok { s with cpu := c } : Res State) = .ok t → t.WellFormed :=
    fun c h1 h2 => ho _ (State.wellFormed_cpu (s := s) c s.mem s.draws hw h1 h2 hw.2.1)
  cases r
  case device n k =>
    exact State.Quiet.wellFormed (s.quiet_writeDevice t n k v h) hw (s.devicesWf_writeDevice t n k v hm h)
  case irt e =>
    refine ho _ ?_ h
    exact State.Quiet.wellFormed (s.quiet_writeIrt e v) hw (s.devicesWf_writeIrt e v hm)
  case resetCpu => exact ho _ (State.wellFormed_writeResetCpu v hw) h
  case outbox =>
    refine ho _ (State.wellFormed_mapCpus _ hw ?_ ?_) h
    · intro c hc; split
      · exact Cpu.wf_receiveIpi _ _ hc
      · exact hc
    · intro c; split
      · unfold Cpu.receiveIpi; split <;> rfl
      · rfl
  case haltCpu =>
    refine ho _ (State.wellFormed_mapCpus _ hw ?_ ?_) h
    · intro c hc; split
      · exact hc
      · exact hc
    · intro c; split <;> rfl
  case power =>
    refine ho _ ?_ h
    unfold State.writePower; split
    · exact hw
    · exact hw
  case inbox => exact hc { s.cpu with ipiQueue := s.cpu.ipiQueue.tail } (Cpu.wf_ipiTail hcpu) rfl h
  case tpr => exact hc { s.cpu with tpr := v.extractLsb' 0 4 } hcpu rfl h
  case biosReserved1 => exact hc { s.cpu with biosReserved1 := v } hcpu rfl h
  case biosReserved2 => exact hc { s.cpu with biosReserved2 := v } hcpu rfl h
  case intervalTimer => exact ho (s.writeIntervalTimer v) hw h
  case bootPc => exact ho { s with bootPc := v } hw h
  case bootSp => exact ho { s with bootSp := v } hw h
  all_goals exact ho s hw h

theorem State.wellFormed_retire {s : State} (h : s.WellFormed) : s.retire.WellFormed :=
  State.wellFormed_cpu (s := s) s.cpu.advance s.mem s.draws h (Cpu.wf_advance (State.cpu_wf h)) rfl h.2.1

/-- Every store instruction (R96). -/
theorem State.wellFormed_memStore {s t : State} (w : Width) (ea v : Word) (hw : s.WellFormed)
    (h : s.memStore w ea v = .ok t) : t.WellFormed := by
  have hcpu := State.cpu_wf hw
  unfold State.memStore at h
  split at h
  · cases h
  · unfold State.physStore at h
    split at h
    · injection h with h
      exact h ▸ State.wellFormed_cpu (s := s) s.cpu.advance _ s.draws hw hcpu rfl
        (Memory.wf_writeWidth _ _ _ _ _ hw.2.1)
    · injection h with h
      exact h ▸ State.wellFormed_cpu (s := s) s.cpu.advance _ s.draws hw hcpu rfl
        (Memory.wf_writeWidth _ _ _ _ _ hw.2.1)
    · cases h
    · split at h
      · exact State.wellFormed_writeRegister v _ (State.wellFormed_retire hw) h
      · cases h
    · cases h

/-- SWL and SWR (R235, R236). -/
theorem State.wellFormed_memStoreAround {s t : State} (ea v : Word) (l : Nat → Bool) (hw : s.WellFormed)
    (h : s.memStoreAround ea v l = .ok t) : t.WellFormed := by
  have hcpu := State.cpu_wf hw
  unfold State.memStoreAround at h
  split at h
  · cases h
  · unfold State.physStoreAround at h
    split at h
    · injection h with h
      exact h ▸ State.wellFormed_cpu (s := s) s.cpu.advance _ s.draws hw hcpu rfl
        (Memory.wf_writeLanes _ _ _ _ _ hw.2.1)
    · injection h with h
      exact h ▸ State.wellFormed_cpu (s := s) s.cpu.advance _ s.draws hw hcpu rfl
        (Memory.wf_writeLanes _ _ _ _ _ hw.2.1)
    · cases h
    · cases h
    · cases h

/-- Exception entry (R340). -/
theorem State.wellFormed_enter {s : State} (e : Exc) (h : s.WellFormed) : (s.enter e).WellFormed :=
  State.wellFormed_cpu (s := s) (s.cpu.enter e) s.mem s.draws h (Cpu.wf_enter e (State.cpu_wf h)) rfl h.2.1

/-- The end of an instruction that may raise an exception. -/
theorem State.wellFormed_finish {s t : State} (r : Res State) (hw : s.WellFormed)
    (hr : ∀ u, r = .ok u → u.WellFormed) (h : s.finish r = .next t) : t.WellFormed := by
  rcases s.finish_next t r h with h | ⟨e, _, h⟩
  · exact hr t h
  · exact h ▸ State.wellFormed_enter e hw

theorem secondariesAtReset_wf {cfg : Config} (h : cfg.valid = true) :
    ∀ c ∈ secondariesAtReset cfg, c.wf cfg = true := by
  intro c hc
  simp only [secondariesAtReset, List.mem_map] at hc
  obtain ⟨k, -, rfl⟩ := hc
  exact Cpu.wf_atReset h _ _

/-- A machine reset (R460), whatever the processors were. -/
theorem State.wellFormed_machineReset {s : State} (h1 : s.cfg.valid = true) (h2 : s.mem.wf = true)
    (h4 : s.DevicesWf) : s.machineReset.WellFormed := by
  refine ⟨h1, ?_, ?_, ?_, ?_⟩
  · show (s.mem.atReset s.cfg).wf = true
    have : (s.mem.romOnly s.cfg).wf = true := by
      unfold Memory.wf at *
      rw [wfCells_eq] at *
      exact cellsFrom_filter _ _ _ h2
    unfold Memory.atReset
    split
    · exact Memory.wf_writeBytes _ _ _ this
    · exact this
  · intro c hc
    simp only [State.allCpus, State.machineReset, List.mem_cons, List.append_nil] at hc
    rcases hc with rfl | hc
    · exact Cpu.wf_atReset h1 _ _
    · exact secondariesAtReset_wf h1 c hc
  · exact State.devicesWf_atReset h4 rfl
  · have hn : 1 ≤ s.cfg.ncpu := by
      simp only [Config.valid, Bool.and_eq_true, decide_eq_true_eq] at h1
      omega
    have : s.machineReset.allCpus.map Cpu.prid = (List.range s.cfg.ncpu).map (BitVec.ofNat 4) := by
      simp only [State.allCpus, State.machineReset, List.append_nil, List.map_cons, secondariesAtReset, List.map_map]
      obtain ⟨n, hn⟩ : ∃ n, s.cfg.ncpu = n + 1 := ⟨s.cfg.ncpu - 1, by omega⟩
      rw [hn, List.range_succ_eq_map]
      simp [Cpu.atReset, Function.comp_def]
    rw [this]
    exact List.Perm.refl _

/-- Every machine that the host switches on with a valid configuration and canonical media is well formed, whatever list
of devices it supplies (R400, R471). -/
theorem State.wellFormed_powerOn (cfg : Config) (execRom bootRom : List Byte) (ds : List (Nat × Device))
    (inputs : List HostInput)
    (h : ({ cfg with execSize := execRom.length, bootSize := bootRom.length } : Config).valid = true)
    (hd : ∀ p ∈ ds, p.2.wf = true) : (State.powerOn cfg execRom bootRom ds inputs).WellFormed :=
  State.wellFormed_machineReset h (Memory.wf_writeBytes _ _ _ (Memory.wf_writeBytes _ _ _ rfl))
    (devicesWf_installed ds hd)

/-- The Interval Timer's tick but for its count (R371). -/
theorem State.quiet_tickInterval (s : State) : ∃ v, s.Quiet { s.tickInterval with intervalTimer := v } := by
  unfold State.tickInterval
  split
  · have h := s.quiet_raiseReq 0 s.itReq
    exact ⟨s.intervalTimer, h.cpu, h.todo, h.done, h.mem, h.cfg, h.tod, rfl, h.bootPc, h.bootSp, h.powerOffAt,
      h.stopped, h.inputs, h.now⟩
  · exact ⟨s.intervalTimer, .refl _⟩

theorem State.wellFormed_tickInterval {s : State} (h : s.WellFormed) : s.tickInterval.WellFormed := by
  obtain ⟨v, hq⟩ := State.quiet_tickInterval s
  have hm : s.tickInterval.DevicesWf := by
    refine State.devicesWf_of_eq (s := s) h.2.2.2.1 ?_
    unfold State.tickInterval; split
    · exact s.raiseReq_devices _ _
    · rfl
  have hw : ({ s.tickInterval with intervalTimer := v } : State).WellFormed := State.Quiet.wellFormed hq h hm
  exact hw

/-- The end of a tick (R480). -/
theorem State.wellFormed_tick {s : State} (h : s.WellFormed) : s.tick.WellFormed := by
  have hd : s.tickDevices.WellFormed := State.Quiet.wellFormed s.quiet_tickDevices h (s.devicesWf_tickDevices h.2.2.2.1)
  have hc : s.tickDevices.tickClocks.WellFormed := by
    have hi := State.wellFormed_tickInterval hd
    have hcfg : s.tickDevices.tickInterval.cfg = s.tickDevices.cfg := by
      obtain ⟨v, hq⟩ := State.quiet_tickInterval s.tickDevices
      exact hq.cfg
    unfold State.tickClocks
    refine State.wellFormed_mapCpus _ (s := { s.tickDevices.tickInterval with tod := s.tickDevices.tod + 1 }) hi ?_ ?_
    · intro c hcw
      rw [← hcfg]
      exact Cpu.wf_tick hi.1 hcw
    · intro c; unfold Cpu.tick; split
      · rfl
      · unfold Cpu.tickTimer; split <;> rfl
  have hp : s.tickDevices.tickClocks.tickPower.WellFormed := by
    unfold State.tickPower; split
    · exact hc
    · split
      · exact hc
      · exact hc
  have hf : ∀ (l : List HostInput) (s : State), s.WellFormed → (l.foldl State.hostControl s).WellFormed := by
    intro l
    induction l with
    | nil => exact fun s h => h
    | cons a l ih =>
      intro s h
      refine ih _ ?_
      unfold State.hostControl; split
      · exact h
      · exact h
      · exact h
      · exact State.wellFormed_machineReset h.1 h.2.1 h.2.2.2.1
      · exact h
  exact hf _ _ hp

/-- Another order of the processors. -/
theorem State.wellFormed_perm {s t : State} (h : s.WellFormed) (hp : t.allCpus.Perm s.allCpus) (hc : t.cfg = s.cfg)
    (hm : t.mem = s.mem) (hd : t.devices = s.devices) : t.WellFormed := by
  obtain ⟨h1, h2, h3, h4, h5⟩ := h
  refine ⟨hc ▸ h1, hm ▸ h2, ?_, State.devicesWf_of_eq h4 hd, ?_⟩
  · intro c hcc; rw [hc]; exact h3 c (hp.mem_iff.1 hcc)
  · rw [hc]; exact (hp.map _).trans h5

/-- The next turn, or the end of the tick (R480). -/
theorem State.wellFormed_passTurn {s : State} (h : s.WellFormed) : s.passTurn.WellFormed := by
  unfold State.passTurn
  split
  · have ht := State.wellFormed_tick h
    obtain ⟨-, n, e⟩ := State.takeTurn_spec { s.tick with done := [] } s.tick.cpu (s.tick.todo ++ s.tick.done)
    refine State.wellFormed_perm ht s.tick.startTick_allCpus ?_ ?_ ?_ <;> (unfold State.startTick; rw [e])
  · next c rest e =>
    obtain ⟨-, n, e'⟩ := State.takeTurn_spec { s with done := s.cpu :: s.done } c rest
    refine State.wellFormed_perm h (s.takeTurn_allCpus c rest e) ?_ ?_ ?_ <;> rw [e']

/-- The end of a turn (R480, R124). -/
theorem State.wellFormed_endTurn {s : State} (h : s.WellFormed) : s.endTurn.WellFormed :=
  State.wellFormed_passTurn (State.Quiet.wellFormed s.quiet_dmaGap h (s.devicesWf_dmaGap h.2.2.2.1))

end Sys2Proof.Machine
end

