-- ==== Sys2Proof/Laws/PerInstr.lean ====
section
/-! SUPPORT. The per-instruction family `PrimaryOp`: the primary opcode of every instruction's word, as the opcode map
of spec/30_encoding.md R144 has it. -/

namespace Sys2Proof

/-- The primary opcode of an instruction (R144). -/
def primaryOp : Instr → BitVec 6
  | .add _ _ _ => 0
  | .addu _ _ _ => 0
  | .sub _ _ _ => 0
  | .subu _ _ _ => 0
  | .and _ _ _ => 0
  | .or _ _ _ => 0
  | .xor _ _ _ => 0
  | .nor _ _ _ => 0
  | .slt _ _ _ => 0
  | .sltu _ _ _ => 0
  | .addi _ _ _ => 0x08
  | .addiu _ _ _ => 0x09
  | .slti _ _ _ => 0x0A
  | .sltiu _ _ _ => 0x0B
  | .andi _ _ _ => 0x0C
  | .ori _ _ _ => 0x0D
  | .xori _ _ _ => 0x0E
  | .lui _ _ => 0x0F
  | .sll _ _ _ => 0
  | .srl _ _ _ => 0
  | .sra _ _ _ => 0
  | .sllv _ _ _ => 0
  | .srlv _ _ _ => 0
  | .srav _ _ _ => 0
  | .mult _ _ => 0
  | .multu _ _ => 0
  | .div _ _ => 0
  | .divu _ _ => 0
  | .mfhi _ => 0
  | .mthi _ => 0
  | .mflo _ => 0
  | .mtlo _ => 0
  | .lb _ _ _ => 0x20
  | .lbu _ _ _ => 0x24
  | .lh _ _ _ => 0x21
  | .lhu _ _ _ => 0x25
  | .lw _ _ _ => 0x23
  | .lwl _ _ _ => 0x22
  | .lwr _ _ _ => 0x26
  | .sb _ _ _ => 0x28
  | .sh _ _ _ => 0x29
  | .sw _ _ _ => 0x2B
  | .swl _ _ _ => 0x2A
  | .swr _ _ _ => 0x2E
  | .j _ => 0x02
  | .jal _ => 0x03
  | .jr _ => 0
  | .jalr _ _ => 0
  | .beq _ _ _ => 0x04
  | .bne _ _ _ => 0x05
  | .blez _ _ => 0x06
  | .bgtz _ _ => 0x07
  | .bltz _ _ => 0x01
  | .bgez _ _ => 0x01
  | .bltzal _ _ => 0x01
  | .bgezal _ _ => 0x01
  | .syscall _ => 0
  | .brk _ => 0
  | .mfc0 _ _ => 0x10
  | .mtc0 _ _ => 0x10
  | .tlbr => 0x10
  | .tlbwi => 0x10
  | .tlbwr => 0x10
  | .tlbp => 0x10
  | .rfe => 0x10
  | .wait => 0x10
  | .cas _ _ _ => 0

namespace Laws.PrimaryOp

/-- The word of an instruction has the primary opcode of the map. -/
def Statement (i : Instr) : Prop := fOp (encode i) = primaryOp i

theorem add (rd rs rt : Reg) : Statement (.add rd rs rt) := fOp_rWord _ _ _ _ _ _
theorem addu (rd rs rt : Reg) : Statement (.addu rd rs rt) := fOp_rWord _ _ _ _ _ _
theorem sub (rd rs rt : Reg) : Statement (.sub rd rs rt) := fOp_rWord _ _ _ _ _ _
theorem subu (rd rs rt : Reg) : Statement (.subu rd rs rt) := fOp_rWord _ _ _ _ _ _
theorem and (rd rs rt : Reg) : Statement (.and rd rs rt) := fOp_rWord _ _ _ _ _ _
theorem or (rd rs rt : Reg) : Statement (.or rd rs rt) := fOp_rWord _ _ _ _ _ _
theorem xor (rd rs rt : Reg) : Statement (.xor rd rs rt) := fOp_rWord _ _ _ _ _ _
theorem nor (rd rs rt : Reg) : Statement (.nor rd rs rt) := fOp_rWord _ _ _ _ _ _
theorem slt (rd rs rt : Reg) : Statement (.slt rd rs rt) := fOp_rWord _ _ _ _ _ _
theorem sltu (rd rs rt : Reg) : Statement (.sltu rd rs rt) := fOp_rWord _ _ _ _ _ _
theorem addi (rt rs : Reg) (imm : Half) : Statement (.addi rt rs imm) := fOp_iWord _ _ _ _
theorem addiu (rt rs : Reg) (imm : Half) : Statement (.addiu rt rs imm) := fOp_iWord _ _ _ _
theorem slti (rt rs : Reg) (imm : Half) : Statement (.slti rt rs imm) := fOp_iWord _ _ _ _
theorem sltiu (rt rs : Reg) (imm : Half) : Statement (.sltiu rt rs imm) := fOp_iWord _ _ _ _
theorem andi (rt rs : Reg) (imm : Half) : Statement (.andi rt rs imm) := fOp_iWord _ _ _ _
theorem ori (rt rs : Reg) (imm : Half) : Statement (.ori rt rs imm) := fOp_iWord _ _ _ _
theorem xori (rt rs : Reg) (imm : Half) : Statement (.xori rt rs imm) := fOp_iWord _ _ _ _
theorem lui (rt : Reg) (imm : Half) : Statement (.lui rt imm) := fOp_iWord _ _ _ _
theorem sll (rd rt : Reg) (sa : BitVec 5) : Statement (.sll rd rt sa) := fOp_rWord _ _ _ _ _ _
theorem srl (rd rt : Reg) (sa : BitVec 5) : Statement (.srl rd rt sa) := fOp_rWord _ _ _ _ _ _
theorem sra (rd rt : Reg) (sa : BitVec 5) : Statement (.sra rd rt sa) := fOp_rWord _ _ _ _ _ _
theorem sllv (rd rt rs : Reg) : Statement (.sllv rd rt rs) := fOp_rWord _ _ _ _ _ _
theorem srlv (rd rt rs : Reg) : Statement (.srlv rd rt rs) := fOp_rWord _ _ _ _ _ _
theorem srav (rd rt rs : Reg) : Statement (.srav rd rt rs) := fOp_rWord _ _ _ _ _ _
theorem mult (rs rt : Reg) : Statement (.mult rs rt) := fOp_rWord _ _ _ _ _ _
theorem multu (rs rt : Reg) : Statement (.multu rs rt) := fOp_rWord _ _ _ _ _ _
theorem div (rs rt : Reg) : Statement (.div rs rt) := fOp_rWord _ _ _ _ _ _
theorem divu (rs rt : Reg) : Statement (.divu rs rt) := fOp_rWord _ _ _ _ _ _
theorem mfhi (rd : Reg) : Statement (.mfhi rd) := fOp_rWord _ _ _ _ _ _
theorem mthi (rs : Reg) : Statement (.mthi rs) := fOp_rWord _ _ _ _ _ _
theorem mflo (rd : Reg) : Statement (.mflo rd) := fOp_rWord _ _ _ _ _ _
theorem mtlo (rs : Reg) : Statement (.mtlo rs) := fOp_rWord _ _ _ _ _ _
theorem lb (rt base : Reg) (off : Half) : Statement (.lb rt base off) := fOp_iWord _ _ _ _
theorem lbu (rt base : Reg) (off : Half) : Statement (.lbu rt base off) := fOp_iWord _ _ _ _
theorem lh (rt base : Reg) (off : Half) : Statement (.lh rt base off) := fOp_iWord _ _ _ _
theorem lhu (rt base : Reg) (off : Half) : Statement (.lhu rt base off) := fOp_iWord _ _ _ _
theorem lw (rt base : Reg) (off : Half) : Statement (.lw rt base off) := fOp_iWord _ _ _ _
theorem lwl (rt base : Reg) (off : Half) : Statement (.lwl rt base off) := fOp_iWord _ _ _ _
theorem lwr (rt base : Reg) (off : Half) : Statement (.lwr rt base off) := fOp_iWord _ _ _ _
theorem sb (rt base : Reg) (off : Half) : Statement (.sb rt base off) := fOp_iWord _ _ _ _
theorem sh (rt base : Reg) (off : Half) : Statement (.sh rt base off) := fOp_iWord _ _ _ _
theorem sw (rt base : Reg) (off : Half) : Statement (.sw rt base off) := fOp_iWord _ _ _ _
theorem swl (rt base : Reg) (off : Half) : Statement (.swl rt base off) := fOp_iWord _ _ _ _
theorem swr (rt base : Reg) (off : Half) : Statement (.swr rt base off) := fOp_iWord _ _ _ _
theorem j (target : BitVec 26) : Statement (.j target) := fOp_jWord _ _
theorem jal (target : BitVec 26) : Statement (.jal target) := fOp_jWord _ _
theorem jr (rs : Reg) : Statement (.jr rs) := fOp_rWord _ _ _ _ _ _
theorem jalr (rd rs : Reg) : Statement (.jalr rd rs) := fOp_rWord _ _ _ _ _ _
theorem beq (rs rt : Reg) (off : Half) : Statement (.beq rs rt off) := fOp_iWord _ _ _ _
theorem bne (rs rt : Reg) (off : Half) : Statement (.bne rs rt off) := fOp_iWord _ _ _ _
theorem blez (rs : Reg) (off : Half) : Statement (.blez rs off) := fOp_iWord _ _ _ _
theorem bgtz (rs : Reg) (off : Half) : Statement (.bgtz rs off) := fOp_iWord _ _ _ _
theorem bltz (rs : Reg) (off : Half) : Statement (.bltz rs off) := fOp_iWord _ _ _ _
theorem bgez (rs : Reg) (off : Half) : Statement (.bgez rs off) := fOp_iWord _ _ _ _
theorem bltzal (rs : Reg) (off : Half) : Statement (.bltzal rs off) := fOp_iWord _ _ _ _
theorem bgezal (rs : Reg) (off : Half) : Statement (.bgezal rs off) := fOp_iWord _ _ _ _
theorem syscall (code : BitVec 20) : Statement (.syscall code) := fOp_codeWord _ _
theorem brk (code : BitVec 20) : Statement (.brk code) := fOp_codeWord _ _
theorem mfc0 (rt rd : Reg) : Statement (.mfc0 rt rd) := fOp_rWord _ _ _ _ _ _
theorem mtc0 (rt rd : Reg) : Statement (.mtc0 rt rd) := fOp_rWord _ _ _ _ _ _
theorem tlbr : Statement (.tlbr) := rfl
theorem tlbwi : Statement (.tlbwi) := rfl
theorem tlbwr : Statement (.tlbwr) := rfl
theorem tlbp : Statement (.tlbp) := rfl
theorem rfe : Statement (.rfe) := rfl
theorem wait : Statement (.wait) := rfl
theorem cas (rd rs rt : Reg) : Statement (.cas rd rs rt) := fOp_rWord _ _ _ _ _ _

end Laws.PrimaryOp

end Sys2Proof
end

