-- ==== Sys2Proof/Tests/Slice0.lean ====
section
/-! SUPPORT. Tests of the model: well-formedness, decoding, one step of each instruction, a few machine events, and
for every statement with hypotheses a state and operands that meet them. Expected values are those of
spec/95_test_vectors.md or computed by hand from the rule named beside each test. -/

set_option maxRecDepth 100000

namespace Sys2Proof.Tests

open Sys2Proof.Machine

/-! ## Helpers -/

/-- The common start state of spec/95_test_vectors.md: one processor in kernel mode at 0x2000.2000, 64 frames of RAM,
the TLB floor at RAMTOP; with some general registers, some words of memory, and the instruction word. -/
def start (regs : List (Reg × Word)) (cells : List (Nat × Word)) (w : Word)
    (cfg : Config := { tlbFloor := .ramTop }) : State :=
  let cpu := { State.reset.cpu with pc := 0x20002000#32, npc := 0x20002004#32, status := 0x10000000#32 }
  { State.reset with
    cfg := cfg
    cpu := regs.foldl (fun (c : Cpu) (p : Reg × Word) => c.setReg p.1 p.2) cpu
    mem := (cells ++ [(0x20002000, w)]).foldl
      (fun (m : Memory) (p : Nat × Word) => Memory.writeWord cfg.bigEndian m p.1 p.2) State.reset.mem }

/-- The big-endian variant of the configuration. -/
def bigCfg : Config := { tlbFloor := .ramTop, bigEndian := true }

/-- The same state with another Status. -/
def withStatus (s : State) (v : Word) : State := { s with cpu := { s.cpu with status := v } }

/-- The same state in a delay slot. -/
def inSlot (s : State) : State := { s with cpu := { s.cpu with inDelay := true } }

/-- A step answers a next state with a property. -/
def gives (s : State) (p : State → Bool) : Bool :=
  match step s with
  | .next t => p t
  | _ => false

/-- An instruction answers a next state. -/
def completes (o : Out) : Bool :=
  match o with
  | .next _ => true
  | _ => false

/-- A step is refused. -/
def refuses (s : State) (r : Refusal) : Bool :=
  match step s with
  | .refused q => q == r
  | _ => false

/-- A step takes an exception with this code from 0x2000.2000 to the general vector. -/
def raises (s : State) (code : Nat) : Bool :=
  gives s fun t => t.cpu.cause.toNat == 4 * code && t.cpu.epc == 0x20002000#32 && t.cpu.pc == 0x80#32

/-- The word at a physical address. -/
def wordAt (t : State) (a : Nat) : Word := t.mem.readWord t.cfg.bigEndian a

/-- The program counter triple of R26. -/
def pcs (t : State) : Word × Word × Bool := (t.cpu.pc, t.cpu.npc, t.cpu.inDelay)

/-! ## Well-formedness -/

theorem test_wellFormed_jalr : (Instr.jalr 5 5).wellFormed = false ∧ (Instr.jalr 31 5).wellFormed = true := by decide

theorem test_wellFormed_bltzal : (Instr.bltzal 31 4).wellFormed = false ∧ (Instr.bltzal 30 4).wellFormed = true := by
  decide

theorem test_wellFormed_bgezal : (Instr.bgezal 31 4).wellFormed = false ∧ (Instr.bgezal 0 4).wellFormed = true := by
  decide

/-! ## Decoding: words written out from spec/30_encoding.md and spec/95_test_vectors.md -/

theorem test_decode_threeRegisters :
    decode 0x00221820#32 = .instr (.add 3 1 2) ∧ decode 0x00221821#32 = .instr (.addu 3 1 2) ∧
    decode 0x00221822#32 = .instr (.sub 3 1 2) ∧ decode 0x00221823#32 = .instr (.subu 3 1 2) ∧
    decode 0x00221824#32 = .instr (.and 3 1 2) ∧ decode 0x00221825#32 = .instr (.or 3 1 2) ∧
    decode 0x00221826#32 = .instr (.xor 3 1 2) ∧ decode 0x00221827#32 = .instr (.nor 3 1 2) ∧
    decode 0x0022182A#32 = .instr (.slt 3 1 2) ∧ decode 0x0022182B#32 = .instr (.sltu 3 1 2) := by decide

theorem test_decode_immediates :
    decode 0x2022FFFF#32 = .instr (.addi 2 1 0xFFFF) ∧ decode 0x2422FFFF#32 = .instr (.addiu 2 1 0xFFFF) ∧
    decode 0x2822FFFF#32 = .instr (.slti 2 1 0xFFFF) ∧ decode 0x2C22FFFF#32 = .instr (.sltiu 2 1 0xFFFF) ∧
    decode 0x3022FF00#32 = .instr (.andi 2 1 0xFF00) ∧ decode 0x3422FF00#32 = .instr (.ori 2 1 0xFF00) ∧
    decode 0x3822FF00#32 = .instr (.xori 2 1 0xFF00) ∧ decode 0x3C021234#32 = .instr (.lui 2 0x1234) := by decide

theorem test_decode_shifts :
    decode 0x00021900#32 = .instr (.sll 3 2 4) ∧ decode 0x00021902#32 = .instr (.srl 3 2 4) ∧
    decode 0x00021FC3#32 = .instr (.sra 3 2 31) ∧ decode 0x00221804#32 = .instr (.sllv 3 2 1) ∧
    decode 0x00221806#32 = .instr (.srlv 3 2 1) ∧ decode 0x00221807#32 = .instr (.srav 3 2 1) := by decide

theorem test_decode_muldiv :
    decode 0x00220018#32 = .instr (.mult 1 2) ∧ decode 0x00220019#32 = .instr (.multu 1 2) ∧
    decode 0x0022001A#32 = .instr (.div 1 2) ∧ decode 0x0022001B#32 = .instr (.divu 1 2) ∧
    decode 0x00001810#32 = .instr (.mfhi 3) ∧ decode 0x00200011#32 = .instr (.mthi 1) ∧
    decode 0x00001812#32 = .instr (.mflo 3) ∧ decode 0x00200013#32 = .instr (.mtlo 1) := by decide

theorem test_decode_loads :
    decode 0x80220003#32 = .instr (.lb 2 1 3) ∧ decode 0x90220003#32 = .instr (.lbu 2 1 3) ∧
    decode 0x84220002#32 = .instr (.lh 2 1 2) ∧ decode 0x94220000#32 = .instr (.lhu 2 1 0) ∧
    decode 0x8C22FFFC#32 = .instr (.lw 2 1 0xFFFC) ∧ decode 0x88220003#32 = .instr (.lwl 2 1 3) ∧
    decode 0x98220001#32 = .instr (.lwr 2 1 1) := by decide

theorem test_decode_stores :
    decode 0xA0220003#32 = .instr (.sb 2 1 3) ∧ decode 0xA4220002#32 = .instr (.sh 2 1 2) ∧
    decode 0xAC220000#32 = .instr (.sw 2 1 0) ∧ decode 0xA8220001#32 = .instr (.swl 2 1 1) ∧
    decode 0xB8220002#32 = .instr (.swr 2 1 2) := by decide

theorem test_decode_jumps :
    decode 0x08000400#32 = .instr (.j 0x400) ∧ decode 0x0C000400#32 = .instr (.jal 0x400) ∧
    decode 0x03E00008#32 = .instr (.jr 31) ∧ decode 0x0320F809#32 = .instr (.jalr 31 25) := by decide

theorem test_decode_branches :
    decode 0x10220003#32 = .instr (.beq 1 2 3) ∧ decode 0x1422FFFE#32 = .instr (.bne 1 2 0xFFFE) ∧
    decode 0x18200003#32 = .instr (.blez 1 3) ∧ decode 0x1C200003#32 = .instr (.bgtz 1 3) ∧
    decode 0x04200003#32 = .instr (.bltz 1 3) ∧ decode 0x04210003#32 = .instr (.bgez 1 3) ∧
    decode 0x04300003#32 = .instr (.bltzal 1 3) ∧ decode 0x04110003#32 = .instr (.bgezal 0 3) := by decide

theorem test_decode_system :
    decode 0x0000000C#32 = .instr (.syscall 0) ∧ decode 0x0000004D#32 = .instr (.brk 1) ∧
    decode 0x40026000#32 = .instr (.mfc0 2 12) ∧ decode 0x40826000#32 = .instr (.mtc0 2 12) ∧
    decode 0x42000001#32 = .instr .tlbr ∧ decode 0x42000002#32 = .instr .tlbwi ∧
    decode 0x42000006#32 = .instr .tlbwr ∧ decode 0x42000008#32 = .instr .tlbp ∧
    decode 0x42000010#32 = .instr .rfe ∧ decode 0x42000020#32 = .instr .wait ∧
    decode 0x0085100B#32 = .instr (.cas 2 4 5) := by decide

/-- Words that are no instruction (R150-R153, R234). -/
theorem test_decode_others :
    decode 0xFC000000#32 = .reserved ∧ decode 0x00000001#32 = .reserved ∧ decode 0x0000000F#32 = .reserved ∧
    decode 0x04020000#32 = .reserved ∧ decode 0x46000000#32 = .copUnusable 1 ∧
    decode 0xC4220000#32 = .copUnusable 1 ∧ decode 0xC0000000#32 = .cop0Reserved ∧
    decode 0x40400000#32 = .cop0Reserved ∧ decode 0x00221860#32 = .mustBeZero := by decide

theorem test_decodeTableWord :
    decodeTableWord 32 0x00221820 = some (.add 3 1 2) ∧ decodeTableWord 32 0xFC000000 = none := by decide

/-! ## Arithmetic, logic, shifts (R171-R194) -/

theorem test_add : gives (start [(1, 5), (2, 0xFFFFFFFD)] [] 0x00221820) (fun t => t.cpu.reg 3 == 2) = true ∧
    gives (start [(1, 21)] [] 0x00210820) (fun t => t.cpu.reg 1 == 42) = true := by decide

theorem test_add_overflow :
    raises (start [(1, 0x7FFFFFFF), (2, 1)] [] 0x00221820) 12 = true ∧
    raises (start [(1, 0x7FFFFFFF), (2, 1)] [] 0x00220020) 12 = true ∧
    raises (start [(1, 0x80000000), (2, 0xFFFFFFFF)] [] 0x00221820) 12 = true := by decide

theorem test_addu : gives (start [(1, 0x7FFFFFFF), (2, 1)] [] 0x00221821)
    (fun t => t.cpu.reg 3 == 0x80000000) = true := by decide

theorem test_sub : gives (start [(1, 5), (2, 7)] [] 0x00221822) (fun t => t.cpu.reg 3 == 0xFFFFFFFE) = true := by decide

theorem test_sub_overflow : raises (start [(1, 0x80000000), (2, 1)] [] 0x00221822) 12 = true ∧
    raises (start [(2, 0x80000000)] [] 0x00221822) 12 = true := by decide

theorem test_subu : gives (start [(1, 0x80000000), (2, 1)] [] 0x00221823)
    (fun t => t.cpu.reg 3 == 0x7FFFFFFF) = true := by decide

theorem test_and : gives (start [(1, 0xFF00FF00), (2, 0x0FF00FF0)] [] 0x00221824)
    (fun t => t.cpu.reg 3 == 0x0F000F00) = true := by decide

theorem test_or : gives (start [(1, 0xFF00FF00), (2, 0x0FF00FF0)] [] 0x00221825)
    (fun t => t.cpu.reg 3 == 0xFFF0FFF0) = true := by decide

theorem test_xor : gives (start [(1, 0xFF00FF00), (2, 0x0FF00FF0)] [] 0x00221826)
    (fun t => t.cpu.reg 3 == 0xF0F0F0F0) = true := by decide

theorem test_nor : gives (start [(1, 0xFF00FF00), (2, 0x0FF00FF0)] [] 0x00221827)
    (fun t => t.cpu.reg 3 == 0x000F000F) = true := by decide

theorem test_slt : gives (start [(1, 0xFFFFFFFF), (2, 1)] [] 0x0022182A) (fun t => t.cpu.reg 3 == 1) = true := by decide

theorem test_sltu : gives (start [(1, 0xFFFFFFFF), (2, 1)] [] 0x0022182B) (fun t => t.cpu.reg 3 == 0) = true ∧
    gives (start [(1, 1), (2, 2)] [] 0x0022182B) (fun t => t.cpu.reg 3 == 1) = true := by decide

theorem test_addi : gives (start [] [] 0x2022FFFF) (fun t => t.cpu.reg 2 == 0xFFFFFFFF) = true := by decide

theorem test_addi_overflow : raises (start [(1, 0x7FFFFFFF)] [] 0x20220001) 12 = true ∧
    raises (start [(1, 0x80000000)] [] 0x2022FFFF) 12 = true := by decide

theorem test_addiu : gives (start [(1, 0x80000000)] [] 0x2422FFFF) (fun t => t.cpu.reg 2 == 0x7FFFFFFF) = true := by
  decide

theorem test_slti : gives (start [(1, 0xFFFFFFFE)] [] 0x2822FFFF) (fun t => t.cpu.reg 2 == 1) = true := by decide

theorem test_sltiu : gives (start [(1, 5)] [] 0x2C22FFFF) (fun t => t.cpu.reg 2 == 1) = true ∧
    gives (start [(1, 0xFFFFFFFF)] [] 0x2C22FFFF) (fun t => t.cpu.reg 2 == 0) = true := by decide

theorem test_andi : gives (start [(1, 0x12345678)] [] 0x3022FF00) (fun t => t.cpu.reg 2 == 0x5600) = true := by decide

theorem test_ori : gives (start [(1, 0x12345678)] [] 0x3422FF00) (fun t => t.cpu.reg 2 == 0x1234FF78) = true := by decide

theorem test_xori : gives (start [(1, 0x12345678)] [] 0x3822FF00) (fun t => t.cpu.reg 2 == 0x1234A978) = true := by
  decide

theorem test_lui : gives (start [] [] 0x3C021234) (fun t => t.cpu.reg 2 == 0x12340000) = true := by decide

theorem test_sll : gives (start [(2, 0xF000000F)] [] 0x00021900) (fun t => t.cpu.reg 3 == 0xF0) = true := by decide

theorem test_srl : gives (start [(2, 0xF000000F)] [] 0x00021902) (fun t => t.cpu.reg 3 == 0x0F000000) = true := by
  decide

theorem test_sra : gives (start [(2, 0xF000000F)] [] 0x00021903) (fun t => t.cpu.reg 3 == 0xFF000000) = true ∧
    gives (start [(2, 0x80000000)] [] 0x00021FC3) (fun t => t.cpu.reg 3 == 0xFFFFFFFF) = true := by decide

theorem test_sllv : gives (start [(2, 1), (1, 0x21)] [] 0x00221804) (fun t => t.cpu.reg 3 == 2) = true := by decide

theorem test_srlv : gives (start [(2, 0x80000000), (1, 31)] [] 0x00221806) (fun t => t.cpu.reg 3 == 1) = true ∧
    gives (start [(2, 0x80000000), (1, 32)] [] 0x00221806) (fun t => t.cpu.reg 3 == 0x80000000) = true := by decide

theorem test_srav : gives (start [(2, 0x80000000), (1, 31)] [] 0x00221807)
    (fun t => t.cpu.reg 3 == 0xFFFFFFFF) = true := by decide

/-! ## Multiply and divide (R211-R218) -/

theorem test_mult :
    gives (start [(1, 0x80000000), (2, 0x80000000)] [] 0x00220018)
      (fun t => t.cpu.hi == 0x40000000 && t.cpu.lo == 0) = true ∧
    gives (start [(1, 0xFFFFFFFF), (2, 1)] [] 0x00220018)
      (fun t => t.cpu.hi == 0xFFFFFFFF && t.cpu.lo == 0xFFFFFFFF) = true := by decide

theorem test_multu : gives (start [(1, 0xFFFFFFFF), (2, 0xFFFFFFFF)] [] 0x00220019)
    (fun t => t.cpu.hi == 0xFFFFFFFE && t.cpu.lo == 1) = true := by decide

theorem test_div :
    gives (start [(1, 0xFFFFFFF9), (2, 2)] [] 0x0022001A)
      (fun t => t.cpu.hi == 0xFFFFFFFF && t.cpu.lo == 0xFFFFFFFD) = true ∧
    gives (start [(1, 0x80000000), (2, 2)] [] 0x0022001A)
      (fun t => t.cpu.hi == 0 && t.cpu.lo == 0xC0000000) = true := by decide

/-- No exception; the quotient itself is free. -/
theorem test_div_undefined : gives (start [(1, 5)] [] 0x0022001A) (fun t => t.cpu.pc == 0x20002004) = true ∧
    gives (start [(1, 0x80000000), (2, 0xFFFFFFFF)] [] 0x0022001A) (fun t => t.cpu.pc == 0x20002004) = true := by decide

theorem test_divu : gives (start [(1, 0xFFFFFFF9), (2, 2)] [] 0x0022001B)
    (fun t => t.cpu.hi == 1 && t.cpu.lo == 0x7FFFFFFC) = true := by decide

/-- The start state with values in HI and LO. -/
def withHiLo (s : State) : State := { s with cpu := { s.cpu with hi := 0x11, lo := 0x22 } }

theorem test_mfhi : gives (withHiLo (start [] [] 0x00001810)) (fun t => t.cpu.reg 3 == 0x11) = true := by decide

theorem test_mthi : gives (withHiLo (start [(1, 7)] [] 0x00200011)) (fun t => t.cpu.hi == 7 && t.cpu.lo == 0x22) = true :=
  by decide

theorem test_mflo : gives (withHiLo (start [] [] 0x00001812)) (fun t => t.cpu.reg 3 == 0x22) = true := by decide

theorem test_mtlo : gives (withHiLo (start [(1, 7)] [] 0x00200013)) (fun t => t.cpu.hi == 0x11 && t.cpu.lo == 7) = true :=
  by decide

/-! ## Loads and stores (R223-R236) -/

/-- The start of the load vectors. -/
def loadStart (w : Word) (cfg : Config := { tlbFloor := .ramTop }) : State :=
  start [(1, 0x20002100), (2, 0xAAAAAAAA)] [(0x20002100, 0x80018203)] w cfg

theorem test_lb : gives (loadStart 0x80220001) (fun t => t.cpu.reg 2 == 0xFFFFFF82) = true ∧
    gives (loadStart 0x80220003 bigCfg) (fun t => t.cpu.reg 2 == 0x3) = true := by decide

theorem test_lbu : gives (loadStart 0x90220003) (fun t => t.cpu.reg 2 == 0x80) = true := by decide

theorem test_lh : gives (loadStart 0x84220002) (fun t => t.cpu.reg 2 == 0xFFFF8001) = true ∧
    gives (loadStart 0x84220002 bigCfg) (fun t => t.cpu.reg 2 == 0xFFFF8203) = true := by decide

theorem test_lh_misaligned : raises (loadStart 0x84220001) 4 = true ∧
    gives (loadStart 0x84220001) (fun t => t.cpu.badVAddr == 0x20002101 && t.cpu.reg 2 == 0xAAAAAAAA) = true := by decide

theorem test_lhu : gives (loadStart 0x94220000) (fun t => t.cpu.reg 2 == 0x8203) = true := by decide

theorem test_lw : gives (loadStart 0x8C220000) (fun t => t.cpu.reg 2 == 0x80018203) = true ∧
    gives (start [(1, 0x20040000)] [] 0x8C22FFFC) (fun t => t.cpu.reg 2 == 0) = true := by decide

theorem test_lw_misaligned : raises (loadStart 0x8C220002) 4 = true := by decide

/-- The start of the unaligned load vectors: the same bytes in both byte orders. -/
def aroundStart (w : Word) (cfg : Config) (low high : Word) : State :=
  start [(1, 0x20002100), (2, 0xAAAAAAAA)] [(0x20002100, low), (0x20002104, high)] w cfg

theorem test_lwl :
    gives (aroundStart 0x88220001 { tlbFloor := .ramTop } 0x33221100 0x77665544)
      (fun t => t.cpu.reg 2 == 0x1100AAAA) = true ∧
    gives (aroundStart 0x88220001 bigCfg 0x00112233 0x44556677) (fun t => t.cpu.reg 2 == 0x112233AA) = true := by decide

theorem test_lwr :
    gives (aroundStart 0x98220001 { tlbFloor := .ramTop } 0x33221100 0x77665544)
      (fun t => t.cpu.reg 2 == 0xAA332211) = true ∧
    gives (aroundStart 0x98220001 bigCfg 0x00112233 0x44556677) (fun t => t.cpu.reg 2 == 0xAAAA0011) = true := by decide

/-- The start of the store vectors. -/
def storeStart (v w : Word) (cfg : Config := { tlbFloor := .ramTop }) : State :=
  start [(1, 0x20002100), (2, v)] [(0x20002100, 0xFFFFFFFF)] w cfg

theorem test_sb : gives (storeStart 0x123456AB 0xA0220003) (fun t => wordAt t 0x20002100 == 0xABFFFFFF) = true ∧
    gives (storeStart 0x123456AB 0xA0220003 bigCfg) (fun t => wordAt t 0x20002100 == 0xFFFFFFAB) = true := by decide

theorem test_sh : gives (storeStart 0x123456AB 0xA4220002) (fun t => wordAt t 0x20002100 == 0x56ABFFFF) = true ∧
    gives (storeStart 0x123456AB 0xA4220002 bigCfg) (fun t => wordAt t 0x20002100 == 0xFFFF56AB) = true := by decide

theorem test_sw : gives (storeStart 0x123456AB 0xAC220000) (fun t => wordAt t 0x20002100 == 0x123456AB) = true := by
  decide

theorem test_sw_traps : raises (storeStart 0x123456AB 0xAC220001) 5 = true ∧
    raises (start [(1, 0x1FC00000)] [] 0xAC220000) 7 = true := by decide

theorem test_swl : gives (storeStart 0x44332211 0xA8220001) (fun t => wordAt t 0x20002100 == 0xFFFF4433) = true ∧
    gives (storeStart 0x44332211 0xA8220001 bigCfg) (fun t => wordAt t 0x20002100 == 0xFF443322) = true := by decide

theorem test_swr : gives (storeStart 0x44332211 0xB8220001) (fun t => wordAt t 0x20002100 == 0x332211FF) = true ∧
    gives (storeStart 0x44332211 0xB8220001 bigCfg) (fun t => wordAt t 0x20002100 == 0x2211FFFF) = true := by decide

/-! ## Jumps and branches (R242-R253) -/

theorem test_j : gives (start [] [] 0x08000400) (fun t => pcs t == (0x20002004, 0x20001000, true)) = true := by decide

theorem test_jal : gives (start [] [] 0x0C000400)
    (fun t => pcs t == (0x20002004, 0x20001000, true) && t.cpu.reg 31 == 0x20002008) = true := by decide

theorem test_jr : gives (start [(31, 0x20002008)] [] 0x03E00008)
    (fun t => pcs t == (0x20002004, 0x20002008, true)) = true := by decide

theorem test_jalr : gives (start [(25, 0x20003000)] [] 0x0320F809)
    (fun t => pcs t == (0x20002004, 0x20003000, true) && t.cpu.reg 31 == 0x20002008) = true := by decide

theorem test_jalr_refused : refuses (start [(25, 0x20003000)] [] 0x0320C809) .notRestartable = true := by decide

theorem test_beq :
    gives (start [(1, 7), (2, 7)] [] 0x10220003) (fun t => pcs t == (0x20002004, 0x20002010, true)) = true ∧
    gives (start [(1, 7), (2, 8)] [] 0x10220003) (fun t => pcs t == (0x20002004, 0x20002008, true)) = true := by decide

theorem test_bne :
    gives (start [(1, 1), (2, 2)] [] 0x1422FFFE) (fun t => pcs t == (0x20002004, 0x20001FFC, true)) = true := by decide

theorem test_bne_in_slot : refuses (inSlot (start [] [] 0x1422FFFE)) .branchInDelaySlot = true := by decide

theorem test_blez : gives (start [] [] 0x18200003) (fun t => t.cpu.npc == 0x20002010) = true ∧
    gives (start [(1, 1)] [] 0x18200003) (fun t => t.cpu.npc == 0x20002008) = true := by decide

theorem test_bgtz : gives (start [(1, 1)] [] 0x1C200003) (fun t => t.cpu.npc == 0x20002010) = true ∧
    gives (start [] [] 0x1C200003) (fun t => t.cpu.npc == 0x20002008) = true := by decide

theorem test_bltz : gives (start [(1, 0x80000000)] [] 0x04200003) (fun t => t.cpu.npc == 0x20002010) = true ∧
    gives (start [] [] 0x04200003) (fun t => t.cpu.npc == 0x20002008) = true := by decide

theorem test_bgez : gives (start [] [] 0x04210003) (fun t => t.cpu.npc == 0x20002010) = true ∧
    gives (start [(1, 0x80000000)] [] 0x04210003) (fun t => t.cpu.npc == 0x20002008) = true := by decide

theorem test_bltzal : gives (start [(1, 5)] [] 0x04300003)
    (fun t => t.cpu.npc == 0x20002008 && t.cpu.reg 31 == 0x20002008) = true := by decide

theorem test_bgezal : gives (start [] [] 0x04110003)
    (fun t => t.cpu.npc == 0x20002010 && t.cpu.reg 31 == 0x20002008) = true := by decide

/-! ## System and CP0 (R260-R272) -/

theorem test_syscall :
    gives (withStatus (start [] [] 0x0000000C) 0x1040FF01)
      (fun t => t.cpu.status == 0x1040FF04 && t.cpu.cause == 0x20 && t.cpu.pc == 0x1FC00180) = true ∧
    gives (inSlot (start [] [] 0x0000000C))
      (fun t => t.cpu.epc == 0x20001FFC && t.cpu.cause == 0x80000020) = true := by decide

theorem test_break : raises (start [] [] 0x0000000D) 9 = true := by decide

/-- RI for a reserved word, CpU with CE = 1 for a coprocessor-1 word. -/
theorem test_reserved_words : raises (start [] [] 0xFC000000) 10 = true ∧
    gives (start [] [] 0x46000000) (fun t => t.cpu.cause == 0x1000002C) = true := by decide

theorem test_must_be_zero : refuses (start [] [] 0x00221860) .mustBeZero = true := by decide

theorem test_mfc0 : gives (start [] [] 0x40026000) (fun t => t.cpu.reg 2 == 0x10000000) = true := by decide

theorem test_mtc0 : gives (start [(2, 0xFFFFFFFC)] [] 0x40826000)
    (fun t => t.cpu.status &&& 0xF840FF3F == 0x1840FF3C) = true := by decide

/-- The start of the TLB vectors. -/
def tlbStart (w : Word) : State :=
  let s := start [] [] w
  { s with cpu := { s.cpu.tlbSet 4 { hi := 0x80001140, lo := 0x20011600 } with
      index := 0x400, entryHi := 0x80001140, entryLo := 0x20011600 } }

theorem test_tlbwi : gives (tlbStart 0x42000002) (fun t => t.cpu.tlbGet 4 == { hi := 0x80001140, lo := 0x20011600 } &&
    t.cpu.tlbGet 3 == { hi := 0, lo := 0 }) = true := by decide

theorem test_tlbwi_refused :
    refuses { tlbStart 0x42000002 with cpu := { (tlbStart 0x42000002).cpu with index := 0x1000 } }
      .tlbIndexBeyondSize = true := by decide

/-- R267: the slot itself is free. -/
theorem test_tlbwr : gives (tlbStart 0x42000006) (fun t => t.cpu.pc == 0x20002004 && t.cpu.entryHi == 0x80001140) =
    true := by decide

theorem test_tlbr : gives { tlbStart 0x42000001 with
      cpu := { (tlbStart 0x42000001).cpu with entryHi := 0, entryLo := 0 } }
    (fun t => t.cpu.entryHi == 0x80001140 && t.cpu.entryLo == 0x20011600) = true := by decide

theorem test_tlbp : gives (tlbStart 0x42000008) (fun t => t.cpu.index == 0x400) = true ∧
    gives { tlbStart 0x42000008 with cpu := { (tlbStart 0x42000008).cpu with entryHi := 0x80007140 } }
      (fun t => t.cpu.pc == 0x20002004) = true := by decide

theorem test_rfe :
    gives (withStatus (start [] [] 0x42000010) 0x1000FF0C) (fun t => t.cpu.status == 0x1000FF03) = true ∧
    gives (withStatus (start [] [] 0x42000010) 0x10000030) (fun t => t.cpu.status == 0x1000003C) = true := by decide

theorem test_wait : gives (start [] [] 0x42000020) (fun t => t.cpu.power == .idle && t.tod == 1) = true := by decide

/-! ## CAS (R290-R293) -/

/-- The start of the CAS vectors. -/
def casStart (expected new w : Word) : State :=
  start [(4, 0x20005000), (5, expected), (2, new)] [(0x20005000, 7)] w

theorem test_cas : gives (casStart 7 9 0x0085100B) (fun t => wordAt t 0x20005000 == 9 && t.cpu.reg 2 == 1) = true ∧
    gives (casStart 8 9 0x0085100B) (fun t => wordAt t 0x20005000 == 7 && t.cpu.reg 2 == 0) = true := by decide

theorem test_cas_aliases :
    gives (casStart 7 9 0x0085200B) (fun t => wordAt t 0x20005000 == 0x20005000 && t.cpu.reg 4 == 1) = true ∧
    gives (casStart 7 9 0x0085000B) (fun t => wordAt t 0x20005000 == 0) = true := by decide

/-! ## Translation (R110-R116; spec/95_test_vectors.md section 8) -/

/-- The start of the translation vectors: user mode, ASID 5, fetching from page 0x80000. -/
def userStart (regs : List (Reg × Word)) (cells : List (Nat × Word)) (w : Word) : State :=
  let s := start regs (cells ++ [(0x20010000, w)]) 0 { tlbFloor := .kuseg }
  let c := (((s.cpu.tlbSet 3 { hi := 0x80000140, lo := 0x20010200 }).tlbSet 4
    { hi := 0x80001140, lo := 0x20011600 }).tlbSet 5 { hi := 0x80002140, lo := 0x20012400 }).tlbSet 7
    { hi := 0x80003240, lo := 0x20013700 }
  { s with cpu := { c with
      pc := 0x80000000#32
      npc := 0x80000004#32
      status := 0x1000FF03#32
      entryHi := 0x140#32 } }

theorem test_translate_load : gives (userStart [(1, 0x80001010)] [(0x20011010, 0x12345678)] 0x8C220000)
    (fun t => t.cpu.reg 2 == 0x12345678) = true ∧
    gives (userStart [(7, 0x80003004)] [(0x20013004, 0x99)] 0x8CE20000) (fun t => t.cpu.reg 2 == 0x99) = true := by decide

theorem test_translate_mod : gives (userStart [(3, 0x80000100)] [] 0xAC620000)
    (fun t => t.cpu.cause == 4 && t.cpu.badVAddr == 0x80000100 && t.cpu.entryHi == 0x80000140 && t.cpu.pc == 0x80 &&
      t.cpu.status == 0x1000FF0C) = true := by decide

theorem test_translate_invalid : gives (userStart [(4, 0x80002000)] [] 0x8C820000)
    (fun t => t.cpu.cause == 8 && t.cpu.entryHi == 0x80002140 && t.cpu.pc == 0x80) = true := by decide

theorem test_translate_refill : gives (userStart [(5, 0x80005000)] [] 0x8CA20000)
    (fun t => t.cpu.cause == 8 && t.cpu.entryHi == 0x80005140 && t.cpu.epc == 0x80000000 && t.cpu.pc == 0) = true := by
  decide

theorem test_translate_user_segment : gives (userStart [(6, 0x10000020)] [] 0x8CC20000)
    (fun t => t.cpu.cause == 0x10 && t.cpu.badVAddr == 0x10000020 && t.cpu.entryHi == 0x140) = true := by decide

/-! ## Registers, timers, devices, processors -/

theorem test_ram_registers : gives (start [(1, 0x10000000)] [] 0x8C220000) (fun t => t.cpu.reg 2 == 0x20000000) = true ∧
    gives (start [(1, 0x10000000)] [] 0x8C220004) (fun t => t.cpu.reg 2 == 0x40000) = true := by decide

/-- R482: the timer is stored and then counts in the same tick. -/
theorem test_interval_timer :
    gives (start [(1, 0x10000000), (2, 5)] [] 0xAC220020)
      (fun t => t.intervalTimer == 4 && !t.itReq.pending && t.tod == 1) = true ∧
    gives (start [(1, 0x10000000)] [] 0xAC220020)
      (fun t => t.intervalTimer == 0xFFFFFFFF && t.itReq.pending) = true := by decide

/-- R48: Status.TE written in a tick whose end finds Timer = 0. -/
theorem test_local_timer : gives (start [(2, 0x18000000)] [] 0x40826000)
    (fun t => t.cpu.timer == 0xFFFFFFFF && t.cpu.pltPending && t.causeIP t.cpu == 0x02) = true := by decide

/-- R354: the pending Interval Timer displaces the instruction. -/
theorem test_interrupt : gives { withStatus (start [(1, 1)] [] 0x00210820) 0x10000401 with
      itReq := { pending := true, owner := none } }
    (fun t => t.cpu.pc == 0x80 && t.cpu.epc == 0x20002000 && t.cpu.cause == 0 && t.cpu.reg 1 == 1 &&
      t.causeRead == 0x400 && t.cpu.status == 0x10000404) = true := by decide

/-- R405: an uninstalled device reads 0. -/
theorem test_uninstalled : gives (start [(1, 0x10000254)] [] 0x8C22000C)
    (fun t => t.cpu.reg 2 == 0 && t.cpu.pc == 0x20002004) = true := by decide

/-- A machine with terminal 0, whose transmitter is in the given state. -/
def terminalStart (transm : Ctl) (regs : List (Reg × Word)) (w : Word) : State :=
  { start regs [] w with
    devices := [(32, .terminal { recv := Ctl.atReset, transm := transm, typed := [], output := [] })] }

/-- R408: printing starts; R453, R451: its completion puts the character out and interrupts on line 7. -/
theorem test_print_completes : gives (terminalStart { Ctl.atReset with status := 3, command := 0x4102, act := .busy 0 0 }
      [] 0x00000000)
    (fun t => (t.interruptingMap 4).toNat == 1 && t.causeIP t.cpu == 0x80 &&
      match t.device 32 with
      | some (.terminal d) => d.output == [0x41] && d.transm.status == 0x4105
      | _ => false) = true := by decide

/-- A machine at tick `now` whose printer 0 started PRINTCHR in tick 0, and whose hardware the host lets fail. -/
def failingPrinter (now : Nat) : State :=
  { start [] [] 0 with
    now := now
    inputs := [{ due := 0, event := .hardwareFailure 24 false 4 }]
    devices := [(24, .printer { ctl := { status := 3, command := 2, act := .busy 0 9, req := IntReq.none }
                                data0 := 0x41, log := [] })] }

/-- R446, R410: a hardware failure ends a printer's operation with code 4 and an interrupt, and prints nothing; not in
the tick of the command, because no operation has delay 0. -/
theorem test_print_fails :
    (match (failingPrinter 1).tickDevices.device 24 with
      | some (.printer d) => d.ctl.status == 4 && d.ctl.req.pending && d.log.isEmpty && !d.ctl.frozen
      | _ => false) = true ∧
    (match (failingPrinter 0).tickDevices.device 24 with
      | some (.printer d) => d.ctl.status == 3 && d.ctl.frozen
      | _ => false) = true := by decide

/-- Terminal 0 with a RECEIVECHAR issued in tick 0. -/
def waitingTerminal : Terminal :=
  { recv := { status := 3, command := 2, act := .awaiting 0, req := IntReq.none }, transm := Ctl.atReset, typed := []
    output := [] }

/-- R454, R410: a character ends a RECEIVECHAR in a later tick, and is kept for a later one in the same tick. -/
theorem test_typeChar :
    (match (State.typeChar { start [] [] 0 with now := 1, devices := [(32, .terminal waitingTerminal)] } 0 0x41).device
        32 with
      | some (.terminal t) => t.recv.status == 0x4105 && t.recv.req.pending
      | _ => false) = true ∧
    (match (State.typeChar { start [] [] 0 with devices := [(32, .terminal waitingTerminal)] } 0 0x41).device 32 with
      | some (.terminal t) => t.recv.status == 3 && t.typed == [0x41] && !t.recv.req.pending && t.recv.frozen
      | _ => false) = true := by decide

/-- R67, R460: a character that the host has buffered does not survive a reset. -/
theorem test_reset_typed : (Device.terminal { waitingTerminal with typed := [0x41] }).atReset 32 =
    .terminal { recv := Ctl.atReset, transm := Ctl.atReset, typed := [], output := [] } := by decide

/-- A printer that does nothing. -/
def idlePrinter : Device := .printer { ctl := Ctl.atReset, data0 := 0, log := [] }

/-- R400: a class on another line and a number past the last are not installed; the numbers rise. -/
theorem test_installedDevices :
    (installedDevices [(31, idlePrinter), (0, idlePrinter), (24, idlePrinter), (40, idlePrinter), (24, idlePrinter)]) =
      [(24, idlePrinter), (31, idlePrinter)] := by decide

/-- A flash device that reads its block 0, of which the first word is 0x04030201, to the last frame of RAM. -/
def readingFlash (moved : Nat) : Flash :=
  { ctl := { status := 3, command := 2, act := .busy 0 9, req := IntReq.none }
    data0 := 0x2003F000, blockCount := 1, moved := moved
    blocks := { cells := [(0, 1), (1, 2), (2, 3), (3, 4), (4095, 5)] } }

/-- R124, R411: a word moves before the completion, upward from the first; the completion moves only the rest. -/
theorem test_dma_words :
    (let t := State.moveUnit { start [] [] 0 with devices := [(8, .flash (readingFlash 0))] } 8
     wordAt t 0x2003F000 == 0x04030201 && t.devices == [(8, .flash (readingFlash 4))]) = true ∧
    (let t := ((start [] [] 0).completeFlash 8 (readingFlash 4092)).2
     wordAt t 0x2003F000 == 0 && wordAt t 0x2003FFFC == 0x05000000) = true := by decide

/-- R393: message 0x2A to processors 1 and 3. -/
theorem test_outbox :
    ((({ start [(1, 0xA2A)] [] 0 with
        cfg := { ncpu := 4 }
        todo := secondariesAtReset { ncpu := 4 } } : State).writeOutbox 0xA2A).todo.map fun c => c.ipiQueue) =
      [[{ origin := 0, message := 0x2A }], [], [{ origin := 0, message := 0x2A }]] := by decide

/-- R382, R66: processor 1 starts at BootPC with SP = BootSP. -/
theorem test_resetCpu :
    ((({ start [] [] 0 with
        cfg := { ncpu := 2 }
        todo := secondariesAtReset { ncpu := 2 }
        bootPc := 0x20003000
        bootSp := 0x20009000 } : State).writeResetCpu 1).done.map fun c =>
          (c.power, c.pc, c.reg 29, c.status, c.prid)) =
      [(.running, 0x20003000, 0x20009000, 0x10400000, 1)] := by decide

/-- Power-on with no image and no device is the reset state. -/
theorem test_powerOn : State.powerOn {} [] [] [] [] = State.reset := by decide

/-- R62: the addresses of processor 15's areas. -/
theorem test_bios_areas : exceptionArea 15 = 0x0FFFF834 ∧ passUpVector 15 = 0x0FFFF9F0 := by decide

/-! ## The contracts of libumps and the default BIOS (R307-R317) -/

/-- The program counter and BadVAddr of a next state. The code stands beside a free BD bit. -/
def entered (o : Out) : Option (Word × Word) :=
  match o with
  | .next t => some (t.cpu.pc, t.cpu.badVAddr)
  | _ => none

/-- An outcome is a refusal. -/
def isRefused (o : Out) (r : Refusal) : Bool :=
  match o with
  | .refused q => q == r
  | _ => false

/-- R314's worked example: KUp and IEp become KUc and IEc; a misaligned block is refused. -/
theorem test_ldst :
    (match (start [] [(0x20003000, 0x140), (0x20003008, 0x0800FF0C), (0x2000300C, 0x20004000), (0x20003010, 7)]
        0).ldst 0x20003000 with
      | .next t => t.cpu.status == 0x0800FF03 && t.cpu.pc == 0x20004000 && t.cpu.reg 1 == 7 && t.cpu.entryHi == 0x140
      | _ => false) = true ∧
    isRefused ((start [] [] 0).ldst 0x20003002) .badStatePointer = true := by decide

/-- R308, R60: what the block holds, and its stores. -/
theorem test_stateBlock :
    (((start [(1, 5), (31, 6)] [] 0).stateBlock 0).1.take 5 == [0, 0, 0x10000000, 0, 5]) = true ∧
    ((start [(1, 5), (31, 6)] [] 0).stateBlock 0).1.length = 35 ∧
    wordAt ((start [] [] 0).storeWords 0x20003000 [1, 2]).1 0x20003004 = 2 := by decide

/-- R308, R307, R317: a bad address raises AdES inside STST; without the privilege CpU or an Address Error. -/
theorem test_libumps_traps :
    entered ((start [] [] 0).stst 0x20003002) = some (0x80, 0x20003002) ∧
    entered ((withStatus (start [] [] 0) 2).stst 0x20003000) = some (0x80, 0) ∧
    entered (withStatus (start [] [] 0) 2).tlbClr = some (0x80, 0) ∧
    entered ((withStatus (start [] [] 0) 2).initCpuCaller 1) = some (0x80, 0x10000508) := by decide

/-- R468, R470: `crti.o` reads the program's header at its logical address. -/
theorem test_startUp :
    entered ((withStatus (start [] [] 0 {}) 2).startUp .crti 0x800000C0) = some (0x80, 0x800000A8) := by decide

/-- An empty disk. -/
def emptyDisk (cylinders sectors : Nat) : Device :=
  .disk {
    ctl := Ctl.atReset, data0 := 0, cylinders := cylinders, heads := 255, sectors := sectors, curCyl := 0
    blocks := { cells := [] }, moved := 0 }

/-- An adapter that executes a READNET of a packet of two bytes to an address. -/
def readingNetwork (a : Word) : Network :=
  { ctl := { status := 3, command := 3, act := .busy 0 9, req := IntReq.none }
    data0 := a, data1 := 9, conf0 := 0, conf1 := 0, rxQueue := [[1, 2]], sent := [], moved := 0, collected := [] }

/-- R438, D45: a READNET to a word-aligned address, and the DMA Transfer Error at one that is not. -/
theorem test_readnet :
    ((start [] [] 0).completeNetwork 16 (readingNetwork 0x20003000)).1.ctl.status = 1 ∧
    ((start [] [] 0).completeNetwork 16 (readingNetwork 0x20003000)).1.data1 = 2 ∧
    ((start [] [] 0).completeNetwork 16 (readingNetwork 0x20003001)).1.ctl.status = 7 := by decide

/-- R474: a disk without a sector is not installed, one with the largest geometry is. -/
theorem test_geometry :
    installedDevices [(0, emptyDisk 65535 0), (1, emptyDisk 65535 255), (2, emptyDisk 65536 1)] =
      [(1, emptyDisk 65535 255)] := by decide

/-- R310: pass-up relies on the two cached addresses. -/
theorem test_passUp_refused : isRefused ((start [] [] 0).passUp false) .biosReservedChanged = true := by decide

/-- R316: PANIC without a terminal leaves the processor in the loop, and its turn does nothing but end. -/
theorem test_stuck : gives { start [] [] 0 with cpu := { (start [] [] 0).cpu with power := .stuck } }
    (fun t => t.cpu.pc == 0x20002000 && t.tod == 1) = true := by decide

/-! ## Witnesses: concrete states and operands that meet the hypotheses of each statement that has any -/

/-- An address is reached when the translation says so. -/
theorem reaches_of (s : State) (k : Access) (w : Width) (ea : Word) (pa : Nat)
    (h : (match translateAddr s.cfg s.cpu k w ea with
      | .ok p => p.toNat == pa
      | .error _ => false) = true) : s.Reaches k w ea pa := by
  unfold State.Reaches
  split at h
  · exact ⟨_, by assumption, by simpa using h⟩
  · cases h

/-- An outcome that is a next state is the next state of something. -/
theorem next_of {o : Out} (h : completes o = true) : ∃ t, o = .next t := by
  unfold completes at h
  split at h
  · exact ⟨_, rfl⟩
  · cases h

theorem witness_EncodeOfDecode : decode 0x00221820#32 = .instr (.add 3 1 2) := by decide

theorem witness_CoprocessorWordsTrap :
    fOp 0x44000000#32 ∈ [0x11#6, 0x31#6, 0x39#6] ∧ fOp 0xEBFFFFFF#32 ∈ [0x12#6, 0x32#6, 0x3A#6] ∧
    fOp 0xCC000000#32 ∈ [0x13#6, 0x33#6, 0x3B#6] := by decide

/-- The first and the last value of each range of reserved fields of `ReservedWordsTrap`. -/
theorem witness_ReservedWordsTrap :
    fOp 0x50000000#32 = 0x14#6 ∧ fOp 0x7C000000#32 = 0x1F#6 ∧ fOp 0xD0000000#32 = 0x34#6 ∧
    fOp 0xDC000000#32 = 0x37#6 ∧ fOp 0xF0000000#32 = 0x3C#6 ∧ fOp 0xFC000000#32 = 0x3F#6 ∧
    fOp 0x9C000000#32 = 0x27#6 ∧ fOp 0xB0000000#32 = 0x2C#6 ∧ fOp 0xB4000000#32 = 0x2D#6 ∧
    fOp 0xBC000000#32 = 0x2F#6 ∧ (fOp 0x00000001#32 = 0 ∧ fFunct 0x00000001#32 = 0x01#6) ∧
    (fOp 0x00000029#32 = 0 ∧ fFunct 0x00000029#32 = 0x29#6) ∧ (fOp 0x00000014#32 = 0 ∧ fFunct 0x00000014#32 = 0x14#6) ∧
    (fOp 0x0000001F#32 = 0 ∧ fFunct 0x0000001F#32 = 0x1F#6) ∧ (fOp 0x0000002C#32 = 0 ∧ fFunct 0x0000002C#32 = 0x2C#6) ∧
    (fOp 0x0000003F#32 = 0 ∧ fFunct 0x0000003F#32 = 0x3F#6) ∧
    (fOp 0x04020000#32 = 1 ∧ fRt 0x04020000#32 ∉ [0x00#5, 0x01#5, 0x10#5, 0x11#5]) ∧
    (fOp 0x041F0000#32 = 1 ∧ fRt 0x041F0000#32 ∉ [0x00#5, 0x01#5, 0x10#5, 0x11#5]) := by decide

/-- The other clauses of `ReservedWordsTrap`. -/
theorem witness_ReservedWordsTrap_cop0 :
    fOp 0xC0000000#32 = 0x30#6 ∧ fOp 0xE0000000#32 = 0x38#6 ∧
    (fOp 0x41E00000#32 = 0x10#6 ∧ fRs 0x41E00000#32 ≠ 0 ∧ fRs 0x41E00000#32 ≠ 4 ∧
      (fRs 0x41E00000#32).getLsbD 4 = false) ∧
    (fOp 0x42000000#32 = 0x10#6 ∧ (0x42000000#32).getLsbD 25 = true ∧
      fFunct 0x42000000#32 ∉ [0x01#6, 0x02#6, 0x06#6, 0x08#6, 0x10#6, 0x20#6]) ∧
    (fOp 0x43FFFFFF#32 = 0x10#6 ∧ (0x43FFFFFF#32).getLsbD 25 = true ∧
      fFunct 0x43FFFFFF#32 ∉ [0x01#6, 0x02#6, 0x06#6, 0x08#6, 0x10#6, 0x20#6]) := by decide

theorem witness_SourceReads :
    State.reset.cpu.loadDelay = none ∧
    ({ State.reset.cpu with loadDelay := some { reg := 2, old := 7, draw := 0 } } : Cpu).loadDelay =
      some { reg := 2, old := 7, draw := 0 } := by decide

theorem witness_TrappingArithmeticCompletes :
    ((0x7FFFFFFF#32).toInt = ((start [(1, 0x7FFFFFFE), (2, 1)] [] 0).cpu.src 1).toInt +
      ((start [(1, 0x7FFFFFFE), (2, 1)] [] 0).cpu.src 2).toInt) ∧
    ((0x80000000#32).toInt = ((start [(1, 0x80000001), (2, 1)] [] 0).cpu.src 1).toInt -
      ((start [(1, 0x80000001), (2, 1)] [] 0).cpu.src 2).toInt) ∧
    ((0x80000000#32).toInt = ((start [(1, 0x80000001)] [] 0).cpu.src 1).toInt + (0xFFFF#16).toInt) := by decide

/-- No word is an integer outside the 32-bit two's complement range. -/
theorem no_word_outside (n : Int) (h : n < -2147483648 ∨ 2147483647 < n) (v : Word) : v.toInt ≠ n := by
  have h1 := BitVec.toInt_lt (x := v)
  have h2 := BitVec.le_toInt (x := v)
  simp only [show (2 : Int) ^ (32 - 1) = 2147483648 from rfl] at h1 h2
  omega

theorem witness_OverflowTraps :
    (∀ v : Word, v.toInt ≠ ((start [(1, 0x7FFFFFFF), (2, 1)] [] 0).cpu.src 1).toInt +
      ((start [(1, 0x7FFFFFFF), (2, 1)] [] 0).cpu.src 2).toInt) ∧
    (∀ v : Word, v.toInt ≠ ((start [(1, 0x80000000), (2, 1)] [] 0).cpu.src 1).toInt -
      ((start [(1, 0x80000000), (2, 1)] [] 0).cpu.src 2).toInt) ∧
    (∀ v : Word, v.toInt ≠ ((start [(1, 0x80000000)] [] 0).cpu.src 1).toInt + (0xFFFF#16).toInt) :=
  ⟨no_word_outside _ (by decide), no_word_outside _ (by decide), no_word_outside _ (by decide)⟩

theorem witness_QuotientsComplete :
    (start [(1, 0x80000000), (2, 1)] [] 0).cpu.src 2 ≠ 0 ∧
    ¬ ((start [(1, 0x80000000), (2, 1)] [] 0).cpu.src 1 = 0x80000000#32 ∧
      (start [(1, 0x80000000), (2, 1)] [] 0).cpu.src 2 = 0xFFFFFFFF#32) := by decide

theorem witness_UndefinedDivisionCompletes :
    (start [(1, 5)] [] 0).cpu.src 2 = 0 ∧
    ((start [(1, 0x80000000), (2, 0xFFFFFFFF)] [] 0).cpu.src 1 = 0x80000000#32 ∧
      (start [(1, 0x80000000), (2, 0xFFFFFFFF)] [] 0).cpu.src 2 = 0xFFFFFFFF#32) := by decide

/-- The last byte, halfword and word of RAM. -/
theorem witness_LoadsComplete :
    (start [(1, 0x2003FFFF)] [] 0).Readable 0x2003FFFF ∧
    (start [(1, 0x2003FFFF)] [] 0).Reaches .load .byte
      ((start [(1, 0x2003FFFF)] [] 0).cpu.src 1 + (0#16).signExtend 32) 0x2003FFFF ∧
    (start [(1, 0x2003FFFE)] [] 0).Readable 0x2003FFFE ∧
    (start [(1, 0x2003FFFE)] [] 0).Reaches .load .half
      ((start [(1, 0x2003FFFE)] [] 0).cpu.src 1 + (0#16).signExtend 32) 0x2003FFFE ∧
    (start [(1, 0x20040000)] [] 0).Readable 0x2003FFFC ∧
    (start [(1, 0x20040000)] [] 0).Reaches .load .word
      ((start [(1, 0x20040000)] [] 0).cpu.src 1 + (0xFFFC#16).signExtend 32) 0x2003FFFC :=
  ⟨by unfold State.Readable; decide, reaches_of _ _ _ _ _ (by decide), by unfold State.Readable; decide,
    reaches_of _ _ _ _ _ (by decide), by unfold State.Readable; decide, reaches_of _ _ _ _ _ (by decide)⟩

theorem witness_UnalignedLoadsComplete :
    (start [(1, 0x2003FFFF)] [] 0).Reaches .load .byte
      ((start [(1, 0x2003FFFF)] [] 0).cpu.src 1 + (0#16).signExtend 32) 0x2003FFFF ∧
    (start [(1, 0x2003FFFF)] [] 0).Readable (0x2003FFFF - 0x2003FFFF % 4) :=
  ⟨reaches_of _ _ _ _ _ (by decide), by unfold State.Readable; decide⟩

/-- The last byte, halfword and word of RAM. -/
theorem witness_StoresComplete :
    (start [(1, 0x2003FFFF)] [] 0).Writable 0x2003FFFF ∧
    (start [(1, 0x2003FFFF)] [] 0).Reaches .store .byte
      ((start [(1, 0x2003FFFF)] [] 0).cpu.src 1 + (0#16).signExtend 32) 0x2003FFFF ∧
    (start [(1, 0x2003FFFE)] [] 0).Writable 0x2003FFFE ∧
    (start [(1, 0x2003FFFE)] [] 0).Reaches .store .half
      ((start [(1, 0x2003FFFE)] [] 0).cpu.src 1 + (0#16).signExtend 32) 0x2003FFFE ∧
    (start [(1, 0x20040000)] [] 0).Writable 0x2003FFFC ∧
    (start [(1, 0x20040000)] [] 0).Reaches .store .word
      ((start [(1, 0x20040000)] [] 0).cpu.src 1 + (0xFFFC#16).signExtend 32) 0x2003FFFC :=
  ⟨by unfold State.Writable; decide, reaches_of _ _ _ _ _ (by decide), by unfold State.Writable; decide,
    reaches_of _ _ _ _ _ (by decide), by unfold State.Writable; decide, reaches_of _ _ _ _ _ (by decide)⟩

theorem witness_UnalignedStoresComplete :
    (start [(1, 0x2003FFFF)] [] 0).Reaches .store .byte
      ((start [(1, 0x2003FFFF)] [] 0).cpu.src 1 + (0#16).signExtend 32) 0x2003FFFF ∧
    (start [(1, 0x2003FFFF)] [] 0).Writable (0x2003FFFF - 0x2003FFFF % 4) :=
  ⟨reaches_of _ _ _ _ _ (by decide), by unfold State.Writable; decide⟩

theorem witness_LoadsHaveNoSideEffect :
    Instr.lw 2 1 0 ∈ [Instr.lb 2 1 0, .lbu 2 1 0, .lh 2 1 0, .lhu 2 1 0, .lw 2 1 0, .lwl 2 1 0, .lwr 2 1 0] ∧
    ∃ t, exec (.lw 2 1 0) (loadStart 0) = .next t := ⟨by decide, next_of (by decide)⟩

theorem witness_MisalignedAccessTraps :
    (0x20002101#32 = (start [(1, 0x20002101)] [] 0).cpu.src 1 + (0#16).signExtend 32 ∧
      (0x20002101#32).toNat % 2 ≠ 0) ∧
    (0x20002102#32 = (start [(1, 0x20002102)] [] 0).cpu.src 1 + (0#16).signExtend 32 ∧
      (0x20002102#32).toNat % 4 ≠ 0) ∧
    ((start [(1, 0x20002102)] [] 0).cpu.src 1).toNat % 4 ≠ 0 ∧ (start [] [] 0).cpu.status.getLsbD 1 = false := by decide

/-- The same state at another program counter. -/
def atPc (s : State) (pc : Word) : State := { s with cpu := { s.cpu with pc := pc, npc := pc + 4 } }

/-- A misaligned program counter. -/
theorem witness_MisalignedAccessTraps_fetch :
    (atPc (start [] [] 0) 0x20002003).cpu.pc.toNat % 4 ≠ 0 ∧ (atPc (start [] [] 0) 0x20002003).stopped = false ∧
    (atPc (start [] [] 0) 0x20002003).cpu.power = .running ∧
    (atPc (start [] [] 0) 0x20002003).intAccepted = false := by decide

/-- The highest forbidden address, for a load and for a fetch; and kernel mode. -/
theorem witness_UserSegmentTraps :
    0x7FFFFFFF#32 = (userStart [(1, 0x7FFFFFFF)] [] 0).cpu.src 1 + (0#16).signExtend 32 ∧
    (userStart [(1, 0x7FFFFFFF)] [] 0).cpu.status.getLsbD 1 = true ∧ (0x7FFFFFFF#32).toNat < 0x80000000 ∧
    (atPc (userStart [] [] 0) 0x7FFFFFFC).cpu.status.getLsbD 1 = true ∧
    (atPc (userStart [] [] 0) 0x7FFFFFFC).cpu.pc.toNat < 0x80000000 ∧
    (atPc (userStart [] [] 0) 0x7FFFFFFC).stopped = false ∧
    (atPc (userStart [] [] 0) 0x7FFFFFFC).cpu.power = .running ∧
    (atPc (userStart [] [] 0) 0x7FFFFFFC).intAccepted = false ∧ (start [] [] 0).cpu.status.getLsbD 1 = false := by
  decide

/-- A configuration with the TLB off and a boot ROM of one word. -/
def romCfg : Config := { bootSize := 4 }

/-- The first address past RAM, with the TLB off and at the TLB floor; the boot ROM. -/
theorem witness_DataAccessTraps :
    0x20040000#32 = (start [(1, 0x20040000)] [] 0 romCfg).cpu.src 1 + (0#16).signExtend 32 ∧
    regionOf romCfg 0x20040000 = .undefined ∧ regionOf romCfg 0x1FC00000 ∈ [.undefined, .rom] ∧
    (∀ w, (start [(1, 0x20040000)] [] 0 romCfg).Reaches .load w 0x20040000 0x20040000) ∧
    (∀ w, (start [(1, 0x20040000)] [] 0 romCfg).Reaches .store w 0x20040000 0x20040000) ∧
    (∀ w, (start [(1, 0x1FC00000)] [] 0 romCfg).Reaches .store w 0x1FC00000 0x1FC00000) ∧
    (∀ k w, translateAddr (start [] [] 0).cfg (start [] [] 0).cpu k w 0x20040000 =
      .error (.tlbRefill k 0x20040000)) :=
  ⟨by decide, by decide, by decide, fun w => reaches_of _ _ _ _ _ (by cases w <;> decide),
    fun w => reaches_of _ _ _ _ _ (by cases w <;> decide), fun w => reaches_of _ _ _ _ _ (by cases w <;> decide),
    fun k w => by cases k <;> cases w <;> rfl⟩

/-- The physical map at the edges of its ranges (spec/20_memory.md, the table of R85), with two ROMs of one word. -/
theorem witness_DataAccessTraps_map :
    (start [] [] 0 { romCfg with execSize := 4 }).cfg.valid = true ∧
    (∀ a ∈ [0x20000000, 0x2003FFFF], regionOf { romCfg with execSize := 4 } a = .ram) ∧
    (∀ a ∈ [0x0FFFF000, 0x0FFFFFFF], regionOf { romCfg with execSize := 4 } a = .biosData) ∧
    (∀ a ∈ [0, 3, 0x1FC00000, 0x1FC00003], regionOf { romCfg with execSize := 4 } a = .rom) ∧
    (∀ a ∈ [4, 0x0FFFEFFF, 0x100002D4, 0x100002FF, 0x100003C0, 0x100003FF, 0x10000414, 0x100004FF, 0x10000518,
        0x1FBFFFFF, 0x1FC00004, 0x1FFFFFFF, 0x20040000, 0xFFFFFFFF],
      regionOf { romCfg with execSize := 4 } a = .undefined) :=
  ⟨by decide, by decide, by decide, by decide, by decide⟩

/-- The last registers of the bus area and of the machine control area. -/
theorem witness_NarrowRegisterAccessStops :
    0x10000028#32 = (start [(1, 0x10000028)] [] 0).cpu.src 1 + (0#16).signExtend 32 ∧
    regionOf (start [(1, 0x10000028)] [] 0).cfg 0x10000028 = .register .tlbFloor ∧
    regionOf (start [] [] 0).cfg 0x10000517 = .register .power ∧
    (start [(1, 0x10000028)] [] 0).Reaches .load .byte 0x10000028 0x10000028 ∧
    (start [(1, 0x10000028)] [] 0).Reaches .load .half 0x10000028 0x10000028 ∧
    (start [(1, 0x10000028)] [] 0).Reaches .store .byte 0x10000028 0x10000028 ∧
    (start [(1, 0x10000028)] [] 0).Reaches .store .half 0x10000028 0x10000028 ∧
    regionOf (start [(1, 0x1000002B)] [] 0).cfg (0x1000002B - 0x1000002B % 4) = .register .tlbFloor ∧
    (start [(1, 0x1000002B)] [] 0).Reaches .load .byte 0x1000002B 0x1000002B ∧
    (start [(1, 0x1000002B)] [] 0).Reaches .store .byte 0x1000002B 0x1000002B :=
  ⟨by decide, by decide, by decide, reaches_of _ _ _ _ _ (by decide), reaches_of _ _ _ _ _ (by decide),
    reaches_of _ _ _ _ _ (by decide), reaches_of _ _ _ _ _ (by decide), by decide, reaches_of _ _ _ _ _ (by decide),
    reaches_of _ _ _ _ _ (by decide)⟩

/-- The premises of the statements about registers at their kernel-mode addresses, with the TLB off. -/
theorem witness_kernel_vmOff : (start [] [] 0 {}).cfg.valid = true ∧ (start [] [] 0 {}).cpu.status.getLsbD 1 = false ∧
    (start [] [] 0 {}).cfg.tlbFloor = .vmOff := by decide

/-- A state whose register 1 plus offset 0 is the address `a`, and whose register 2 is 9. -/
theorem address_in_register (a : Word) :
    (start [(1, a), (2, 9)] [] 0 {}).cpu.src 1 + (0#16).signExtend 32 = a := by
  have h : (start [(1, a), (2, 9)] [] 0 {}).cpu.src 1 = a := rfl
  rw [h]
  simp

/-- Every address of the list, and the Inbox's, is some base register plus offset 0; with `witness_kernel_vmOff`. -/
theorem witness_BusRegistersRead :
    (start [(1, 0x10000400), (2, 9)] [] 0 {}).cpu.src 1 + (0#16).signExtend 32 = 0x10000400#32 ∧
    ({ (start [(1, 0x10000400), (2, 9)] [] 0 {}).cpu with ipiQueue := [{ origin := 15, message := 255 }] } :
      Cpu).ipiQueue = { origin := 15, message := 255 } :: [] ∧
    (start [(1, 0x10000000), (2, 9)] [] 0 {}).cpu.src 1 + (0#16).signExtend 32 = 0x10000000#32 ∧
    (start [(1, 0x1000050C), (2, 9)] [] 0 {}).cpu.src 1 + (0#16).signExtend 32 = 0x1000050C#32 :=
  ⟨address_in_register _, rfl, address_in_register _, address_in_register _⟩

/-- The first and the last address of each range; with `witness_kernel_vmOff`. -/
theorem witness_ReadOnlyRegistersIgnoreStores :
    ∀ a ∈ [0x10000000#32, 0x10000050#32, 0x10000500#32],
      a = (start [(1, a), (2, 9)] [] 0 {}).cpu.src 1 + (0#16).signExtend 32 ∧ a.toNat % 4 = 0 ∧
      ((0x10000000 ≤ a.toNat ∧ a.toNat < 0x10000054 ∧ a.toNat ≠ 0x10000020) ∨ a.toNat = 0x10000500) :=
  fun a h => ⟨(address_in_register a).symm, by
    simp only [List.mem_cons, List.not_mem_nil, or_false] at h
    rcases h with rfl | rfl | rfl <;> decide⟩

/-- The first word of device 0, not installed; DATA1 of a flash device; a word of a busy printer; with
`witness_kernel_vmOff`. -/
theorem witness_ReadOnlyRegistersIgnoreStores_device :
    0x10000054#32 = (start [(1, 0x10000054)] [] 0 {}).cpu.src 1 + (0#16).signExtend 32 ∧
    (0x10000054#32).toNat = 0x10000054 + 16 * 0 + 4 * 0 ∧ (start [(1, 0x10000054)] [] 0 {}).device 0 = none ∧
    Device.ReadOnlyWord 3 (.flash (readingFlash 0)) ∧
    Device.ReadOnlyWord 1 (.printer { ctl := { Ctl.atReset with act := .busy 0 7 }, data0 := 0, log := [] }) ∧
    Device.ReadOnlyWord 2 (.terminal { recv := Ctl.atReset, transm := Ctl.atReset, typed := [], output := [] }) := by
  unfold Device.ReadOnlyWord; decide

/-- Each of the seven registers; with `witness_kernel_vmOff`. -/
theorem witness_BusRegistersWrite :
    ∀ a ∈ [0x10000020#32, 0x10000508#32, 0x1000050C#32, 0x10000408#32, 0x10000400#32, 0x1000040C#32, 0x10000410#32],
      a = (start [(1, a), (2, 9)] [] 0 {}).cpu.src 1 + (0#16).signExtend 32 ∧
      9#32 = (start [(1, a), (2, 9)] [] 0 {}).cpu.src 2 := fun a _ => ⟨(address_in_register a).symm, rfl⟩

theorem witness_OutboxDelivers :
    (start [(1, 0x10000404)] [] 0 {}).cpu.src 1 + (0#16).signExtend 32 = 0x10000404#32 ∧
    (start [(1, 0x10000404)] [] 0 {}).cfg.valid = true ∧ (start [(1, 0x10000404)] [] 0 {}).cfg.tlbFloor = .vmOff ∧
    (start [(1, 0x10000404)] [] 0 {}).cpu.status.getLsbD 1 = false := by decide

/-- A machine with one printer, whose controller is doing something. -/
def printerStart (n : Nat) (act : Activity) (regs : List (Reg × Word)) : State :=
  { start regs [] 0 {} with
    devices := [(n, .printer { ctl := { Ctl.atReset with act := act }, data0 := 0, log := [] })] }

/-- The first and the last printer; a busy and a ready one; the smallest and the greatest operation code. -/
theorem witness_PrinterCommands :
    (printerStart 31 (.busy 0 7) [(1, 0x10000244)]).cpu.src 1 + (0#16).signExtend 32 =
      BitVec.ofNat 32 (0x10000054 + 16 * 31 + 4 * 0) ∧
    (printerStart 31 (.busy 0 7) [(1, 0x10000244)]).device 31 =
      some (.printer { ctl := { Ctl.atReset with act := .busy 0 7 }, data0 := 0, log := [] }) ∧
    (printerStart 24 .ready [(1, 0x100001D8), (2, 2), (3, 255)]).cpu.src 1 + (0#16).signExtend 32 =
      BitVec.ofNat 32 (0x10000054 + 16 * 24 + 4 * 1) ∧
    (printerStart 24 .ready [(1, 0x100001D8), (2, 2), (3, 255)]).device 24 =
      some (.printer { ctl := { Ctl.atReset with act := .ready }, data0 := 0, log := [] }) ∧
    256 ≤ ((printerStart 24 .ready [(1, 0x100001D8), (2, 256)]).cpu.src 2).toNat ∧
    2 ≤ ((printerStart 24 .ready [(1, 0x100001D8), (2, 2), (3, 255)]).cpu.src 2).toNat ∧
    ((printerStart 24 .ready [(1, 0x100001D8), (2, 2), (3, 255)]).cpu.src 3).toNat < 256 ∧
    (printerStart 24 .ready []).cfg.valid = true ∧ (printerStart 24 .ready []).cpu.status.getLsbD 1 = false := by decide

/-- A swap, a failed comparison, and an address outside RAM. -/
theorem witness_CasCompletes :
    (casStart 7 9 0).Reaches .store .word ((casStart 7 9 0).cpu.src 4) 0x20005000 ∧
    regionOf (casStart 7 9 0).cfg 0x20005000 = .ram ∧
    (casStart 7 9 0).mem.readWord (casStart 7 9 0).cfg.bigEndian 0x20005000 = (casStart 7 9 0).cpu.src 5 ∧
    (casStart 8 9 0).mem.readWord (casStart 8 9 0).cfg.bigEndian 0x20005000 ≠ (casStart 8 9 0).cpu.src 5 ∧
    regionOf (start [(4, 0x10000020)] [] 0).cfg 0x10000020 ≠ .ram ∧
    (start [(4, 0x10000020)] [] 0).Reaches .store .word ((start [(4, 0x10000020)] [] 0).cpu.src 4) 0x10000020 :=
  ⟨reaches_of _ _ _ _ _ (by decide), by decide, by decide, by decide, by decide, reaches_of _ _ _ _ _ (by decide)⟩

/-- The jumps, the branches and the linking branches need only a state outside a delay slot. -/
theorem witness_jumps : (start [] [] 0).cpu.inDelay = false ∧ (5 : Reg) ≠ 31 ∧
    0x20001000#32 = (((start [] [] 0).cpu.pc + 4) &&& 0xF0000000#32 ||| ((0x400#26).setWidth 32 <<< 2)) ∧
    0x20002010#32 = (start [] [] 0).cpu.pc + 4 + 4 * (3#16).signExtend 32 := by decide

theorem witness_ForbiddenFormsStop : (inSlot (start [] [] 0)).cpu.inDelay = true ∧ (start [] [] 0).cpu.inDelay = false ∧
    (start [] [] 0).cpu.unprivileged = false ∧
    ({ (start [] [] 0).cpu with index := 0x1000 } : Cpu).unprivileged = false ∧
    (start [] [] 0).cfg.tlbSize ≤ ((0x1000#32).extractLsb' 8 6).toNat := by decide

/-- A word for each clause of `ForbiddenFormsStop` about must-be-zero fields. -/
theorem witness_ForbiddenFormsStop_words :
    (fOp 0x00221861#32 = 0 ∧ fFunct 0x00221861#32 = 0x21 ∧ fSa 0x00221861#32 = 1) ∧
    (fOp 0x03E00000#32 = 0 ∧ fFunct 0x03E00000#32 = 0 ∧ fRs 0x03E00000#32 = 31) ∧
    (fOp 0x00000808#32 = 0 ∧ fFunct 0x00000808#32 = 0x08 ∧ fRd 0x00000808#32 = 1) ∧
    (fOp 0x00010009#32 = 0 ∧ fFunct 0x00010009#32 = 0x09 ∧ fRt 0x00010009#32 = 1) ∧
    (fOp 0x00200010#32 = 0 ∧ fFunct 0x00200010#32 = 0x10 ∧ fRs 0x00200010#32 = 1) ∧
    (fOp 0x0000081A#32 = 0 ∧ fFunct 0x0000081A#32 = 0x1A ∧ fRd 0x0000081A#32 = 1) ∧
    (fOp 0x18010000#32 = 0x06 ∧ fRt 0x18010000#32 = 1) ∧ (fOp 0x3C200000#32 = 0x0F ∧ fRs 0x3C200000#32 = 1) := by
  decide

/-- User mode with CU[0] = 0; privileged in kernel mode and in user mode with CU[0] = 1. -/
theorem witness_Cp0NeedsPrivilege :
    (withStatus (start [] [] 0) 2).cpu.status.getLsbD 1 = true ∧
    (withStatus (start [] [] 0) 2).cpu.status.getLsbD 28 = false ∧ (start [] [] 0).cpu.unprivileged = false ∧
    (withStatus (start [] [] 0) 0x10000002).cpu.unprivileged = false := by decide

theorem witness_Mfc0Completes : (start [] [] 0).cpu.unprivileged = false ∧
    (∀ p ∈ cp0RegnumDefault, (start [] [] 0).cp0Of p.1 = some p.2) ∧
    (start [] [] 0).cpu.status &&& 0xE7BF00C0#32 = 0 := by decide

theorem witness_Mtc0Completes : (start [(2, 5)] [] 0).cpu.unprivileged = false ∧
    5#32 = (start [(2, 5)] [] 0).cpu.src 2 := by decide

theorem witness_TlbMovesComplete : (tlbStart 0).cpu.unprivileged = false ∧
    4#6 = (tlbStart 0).cpu.index.extractLsb' 8 6 ∧ (4#6).toNat < (tlbStart 0).cfg.tlbSize ∧
    (tlbStart 0).cfg.valid = true := by decide

/-- A page with one matching slot, and a page with none. -/
theorem witness_TlbProbeCompletes : (tlbStart 0).cpu.unprivileged = false ∧ (tlbStart 0).cfg.valid = true ∧
    (tlbStart 0).Matches ((tlbStart 0).cpu.entryHi.extractLsb' 12 20) 4 ∧
    (∀ j, (tlbStart 0).Matches ((tlbStart 0).cpu.entryHi.extractLsb' 12 20) j → j.toNat ≤ (4#6).toNat) ∧
    (∀ j, ¬ (tlbStart 0).Matches 0x80007 j) := by
  refine ⟨by decide, by decide, by unfold State.Matches; decide, ?_, ?_⟩
  · unfold State.Matches; decide
  · unfold State.Matches; decide

theorem witness_RfeAndWaitComplete : (start [] [] 0).cpu.unprivileged = false := by decide

/-- The Interval Timer's interrupt pending and enabled, and nothing pending. -/
theorem witness_InterruptsAreTaken :
    let s := { withStatus (start [] [] 0) 0x10000401 with itReq := { pending := true, owner := none } }
    s.stopped = false ∧ s.cpu.power = .running ∧
    (∃ l < 8, s.cpu.status.getLsbD 0 = true ∧ s.cpu.status.getLsbD (8 + l) = true ∧ s.linePending s.cpu l = true) ∧
    (∀ l < 8, (start [] [] 0).cpu.status.getLsbD 0 = false ∨ (start [] [] 0).cpu.status.getLsbD (8 + l) = false ∨
      (start [] [] 0).linePending (start [] [] 0).cpu l = false) := by decide

/-- Each line pending, where a state makes it so: a message, the local timer, the Interval Timer routed dynamically, the
first disk and the last terminal routed statically. -/
theorem witness_InterruptsAreTaken_lines :
    let pend : IntReq := { pending := true, owner := none }
    let c := { (start [] [] 0).cpu with ipiQueue := [{ origin := 3, message := 0 }], pltPending := true }
    let s := { start [] [] 0 with
      irt := (Vector.replicate 48 0).set 0 0x10000001#32
      itReq := { pending := true, owner := some 0 }
      devices := [(0, .disk { ctl := { Ctl.atReset with req := pend }, data0 := 0, cylinders := 1, heads := 1,
                              sectors := 1, curCyl := 0, blocks := { cells := [] }, moved := 0 }),
        (39, .terminal { recv := Ctl.atReset, transm := { Ctl.atReset with req := pend }, typed := [],
                         output := [] })] }
    s.linePending c 0 = true ∧ s.linePending { c with status := 0x18000000#32 } 1 = true ∧
    s.linePending c 2 = true ∧ s.linePending c 3 = true ∧ s.linePending c 7 = true ∧
    s.linePending { c with prid := 1 } 3 = false := by decide

/-- Interrupts disabled in kernel mode, and enabled in it. -/
theorem witness_KuIeStacks :
    (start [] [] 0).cpu.status.getLsbD 0 = false ∧ (start [] [] 0).cpu.status.getLsbD 1 = false ∧
    (withStatus (start [] [] 0) 0x10000401).cpu.status.getLsbD 0 = true ∧
    (start [] [] 0).cp0Of 12 = some .status := by decide

theorem witness_StepRunsDecoded :
    let s := start [] [] 0x00221820
    s.stopped = false ∧ s.cpu.power = .running ∧ s.intAccepted = false ∧
    s.Reaches .fetch .word s.cpu.pc 0x20002000 ∧ s.Readable 0x20002000 ∧
    decode (s.mem.readWord s.cfg.bigEndian 0x20002000) = .instr (.add 3 1 2) :=
  ⟨by decide, by decide, by decide, reaches_of _ _ _ _ _ (by decide), by unfold State.Readable; decide, by decide⟩

/-- A misaligned program counter, and one past the end of RAM. -/
theorem witness_FetchTraps :
    (atPc (start [] [] 0 {}) 0x20003002).stopped = false ∧
    (atPc (start [] [] 0 {}) 0x20003002).cpu.power = .running ∧
    (atPc (start [] [] 0 {}) 0x20003002).intAccepted = false ∧
    (atPc (start [] [] 0 {}) 0x20003002).cpu.pc.toNat % 4 ≠ 0 ∧
    translateAddr (atPc (start [] [] 0 {}) 0x20003002).cfg (atPc (start [] [] 0 {}) 0x20003002).cpu .fetch .word
      0x20003002#32 = .error (.addressError .fetch 0x20003002#32) ∧
    (atPc (start [] [] 0 {}) 0x20040000).Reaches .fetch .word 0x20040000 0x20040000 ∧
    regionOf (atPc (start [] [] 0 {}) 0x20040000).cfg 0x20040000 = .undefined ∧
    (atPc (start [] [] 0 {}) 0x10000000).Reaches .fetch .word 0x10000000 0x10000000 ∧
    regionOf (atPc (start [] [] 0 {}) 0x10000000).cfg 0x10000000 = .register .ramBase :=
  ⟨by decide, by decide, by decide, by decide, rfl, reaches_of _ _ _ _ _ (by decide), by decide,
    reaches_of _ _ _ _ _ (by decide), by decide⟩

/-- The same state with the processor in another power state. -/
def powered (s : State) (p : Power) : State := { s with cpu := { s.cpu with power := p } }

theorem witness_SleepingProcessors :
    (powered (start [] [] 0) .halted).stopped = false ∧ (powered (start [] [] 0) .halted).cpu.power = .halted ∧
    (powered (start [] [] 0) .stuck).cpu.power = .stuck ∧ (powered (start [] [] 0) .idle).cpu.power = .idle ∧ (powered (start [] [] 0) .idle).cfg.waitNeedsSignal = false ∧
    (∀ l < 8, (powered (start [] [] 0) .idle).linePending (powered (start [] [] 0) .idle).cpu l = false) ∧
    (∃ l < 8, State.linePending { powered (start [] [] 0) .idle with itReq := { pending := true, owner := none } }
      (powered (start [] [] 0) .idle).cpu l = true) ∧
    ({ start [] [] 0 with stopped := true } : State).stopped = true := by decide

/-- Two machines that differ in much else than what the translation reads. -/
theorem witness_TranslationReadsOnly :
    let c := (start [] [] 0).cpu
    let c' := { c with pc := 0, epc := 5, status := 0x18000000#32, entryHi := 0xFFFFF000#32, hi := 3 }
    ({ bootSize := 8 } : Config).tlbFloor = ({} : Config).tlbFloor ∧
    ({ bootSize := 8 } : Config).ramFrames = ({} : Config).ramFrames ∧
    ({ bootSize := 8 } : Config).tlbSize = ({} : Config).tlbSize ∧
    c'.status.getLsbD 1 = c.status.getLsbD 1 ∧ c'.entryHi.extractLsb' 6 6 = c.entryHi.extractLsb' 6 6 ∧
    c'.tlb = c.tlb := by decide

/-- Misaligned, in user mode below 0x8000.0000, below the floor, at the floor with no matching slot, and with one. -/
theorem witness_TranslationFollowsTlb :
    (userStart [] [] 0).cfg.valid = true ∧ (userStart [] [] 0).cfg.tlbFloor = .kuseg ∧
    (0x80000001#32).toNat % Width.half.bytes ≠ 0 ∧ (0x80000002#32).toNat % Width.word.bytes ≠ 0 ∧
    (userStart [] [] 0).cpu.status.getLsbD 1 = true ∧ (0x80005000#32).toNat % Width.word.bytes = 0 ∧
    (0x7FFFFFFC#32).toNat % Width.word.bytes = 0 ∧ (0x80000000#32).toNat % Width.word.bytes = 0 ∧
    (start [] [] 0).cpu.status.getLsbD 1 = false ∧ (0x7FFFFFFF#32).toNat < 0x80000000 ∧
    0x80000000 ≤ (0x80005000#32).toNat ∧ (∀ i, ¬ (userStart [] [] 0).Matches ((0x80005000#32).extractLsb' 12 20) i) ∧
    0x80000000 ≤ (0x80000000#32).toNat ∧ (userStart [] [] 0).Matches ((0x80000000#32).extractLsb' 12 20) 3 ∧
    (∀ j, (userStart [] [] 0).Matches ((0x80000000#32).extractLsb' 12 20) j → j.toNat ≤ (3#6).toNat) := by
  unfold State.Matches
  decide

theorem witness_UserAddresses :
    (userStart [] [] 0).cpu.status.getLsbD 1 = true ∧
    translateAddr (userStart [] [] 0).cfg (userStart [] [] 0).cpu .load .word 0x80001010#32 = .ok 0x20011010#32 :=
  ⟨by decide, rfl⟩

theorem witness_ClocksTick :
    (withStatus (start [] [] 0) 0x18000000).cpu.power ≠ .halted ∧
    (withStatus (start [] [] 0) 0x18000000).cpu.status.getLsbD 27 = true ∧
    (start [] [] 0).cpu.status.getLsbD 27 = false := by decide

/-- Random at both ends of its range. -/
theorem witness_RandomCountsDown :
    (start [] [] 0).cfg.valid = true ∧ (start [] [] 0).cpu.power ≠ .halted ∧ 1 ≤ (start [] [] 0).cpu.random.toNat ∧
    (start [] [] 0).cpu.random.toNat < (start [] [] 0).cfg.tlbSize ∧
    1 ≤ ({ (start [] [] 0).cpu with random := 1 } : Cpu).random.toNat ∧
    ({ (start [] [] 0).cpu with random := 1 } : Cpu).random.toNat < (start [] [] 0).cfg.tlbSize := by decide

theorem witness_StepsTickUnderOneConfiguration : (start [] [] 0).todo = [] ∧ (start [] [] 0).inputs = [] ∧
    ∃ t, step (start [] [] 0) = .next t := ⟨rfl, rfl, next_of (by decide)⟩

/-- A well-formed machine whose step answers a next state. -/
theorem witness_StepKeepsWellFormed : (userStart [] [] 0).WellFormed ∧ ∃ t, step (userStart [] [] 0) = .next t :=
  ⟨by unfold State.WellFormed State.DevicesWf Device.WfAt; decide, next_of (by decide)⟩

/-- User mode without CP0: an instruction that completes, and one that traps. -/
theorem witness_UserModeIsConfined :
    let s := withStatus (userStart [] [] 0) 2
    s.cfg.valid = true ∧ s.cpu.unprivileged = true ∧ (∃ t, exec (.addiu 2 2 1) s = .next t) ∧
    ∃ t, exec .wait s = .next t :=
  ⟨by decide, by decide, next_of (by decide), next_of (by decide)⟩

end Sys2Proof.Tests
end

section
/-! PROOFS. The clock and the configuration over a step (R9, R370, R481). An instruction leaves the bus alone
(`exec_sameBus`), so a step is a turn that leaves it alone followed by `State.endTurn`; only the end of a tick moves
the clock, and nothing writes the configuration. -/

namespace Sys2Proof.Machine

/-! ## The turn -/

/-- The bus side of an instruction word, whatever it decodes to. -/
theorem State.sameBus_execute {s t : State} {w : Word} (h : s.execute w = .next t) : s.SameBus t := by
  have entered : ∀ e : Exc, (.next (s.enter e) : Out) = .next t → s.SameBus t := by
    intro e he; injection he with he; exact he ▸ s.sameBus_enter e
  unfold State.execute at h
  split at h
  case h_1 i _ => exact exec_sameBus i s t h
  case h_2 => exact entered _ h
  case h_3 =>
    split at h
    · exact entered _ h
    · exact entered _ h
  case h_4 => exact entered _ h
  case h_5 => cases h

/-- The bus side of a Running processor's turn, before the turn ends. -/
theorem State.sameBus_runTurn {s t : State} (h : s.runTurn = .next t) : s.SameBus t := by
  unfold State.runTurn at h
  split at h
  · injection h with h; exact h ▸ s.sameBus_enter _
  · split at h
    · exact State.sameBus_execute h
    · injection h with h; exact h ▸ s.sameBus_enter _
    · cases h

theorem State.sameBus_idleTurn (s : State) : s.SameBus s.idleTurn := by
  unfold State.idleTurn
  split
  · exact s.sameBus_cpu _ _ _
  · exact .refl s

/-- A turn that is over ended the turn of the state that its outcome answered. -/
theorem turnOver_next {o : Out} {t : State} (h : turnOver o = .next t) : ∃ u, o = .next u ∧ t = u.endTurn := by
  cases o with
  | next u => injection h with h; exact ⟨u, rfl, h.symm⟩
  | fault f => cases h
  | refused r => cases h

/-- Everything a step can do on the bus side: a turn that leaves it alone, then the end of the turn (R480). -/
theorem step_next_endTurn {s t : State} (h : step s = .next t) : ∃ u, s.SameBus u ∧ t = u.endTurn := by
  have ends : ∀ o : Out, (∀ u, o = .next u → s.SameBus u) → turnOver o = .next t →
      ∃ u, s.SameBus u ∧ t = u.endTurn := by
    intro o ho ht
    obtain ⟨u, hu, rfl⟩ := turnOver_next ht
    exact ⟨u, ho u hu, rfl⟩
  have stays : ∀ v : State, s.SameBus v → ∀ u, (.next v : Out) = .next u → s.SameBus u := by
    intro v hv u hu; injection hu with hu; exact hu ▸ hv
  unfold step at h
  split at h
  · cases h
  · unfold State.turn at h
    split at h
    · exact ends _ (stays s (.refl s)) h
    · exact ends _ (stays _ s.sameBus_idleTurn) h
    · exact ends _ (fun _ => State.sameBus_runTurn) h
    · exact ends _ (stays s (.refl s)) h

/-! ## The end of a tick -/

@[simp] theorem State.tickInterval_cfg (s : State) : s.tickInterval.cfg = s.cfg := by
  obtain ⟨_, hq⟩ := s.quiet_tickInterval
  exact hq.cfg

@[simp] theorem State.tickInterval_now (s : State) : s.tickInterval.now = s.now := by
  obtain ⟨_, hq⟩ := s.quiet_tickInterval
  exact hq.now

@[simp] theorem State.tickClocks_cfg (s : State) : s.tickClocks.cfg = s.cfg := by simp [State.tickClocks]
@[simp] theorem State.tickClocks_now (s : State) : s.tickClocks.now = s.now := by simp [State.tickClocks]
@[simp] theorem State.tickClocks_tod (s : State) : s.tickClocks.tod = s.tod + 1 := rfl

/-- A power-off completes by stopping the machine and by nothing else (R384). -/
theorem State.tickPower_eq (s : State) : ∃ b, s.tickPower = { s with stopped := b } := by
  unfold State.tickPower
  split
  · exact ⟨_, rfl⟩
  · split <;> exact ⟨_, rfl⟩

/-- The three phases of a tick before the host's Reset and power-off: TOD counts, the rest stays. -/
theorem State.tickPhases_bus (s : State) :
    s.tickDevices.tickClocks.tickPower.cfg = s.cfg ∧ s.tickDevices.tickClocks.tickPower.tod = s.tod + 1 ∧
      s.tickDevices.tickClocks.tickPower.now = s.now := by
  have hd := s.quiet_tickDevices
  obtain ⟨b, hp⟩ := s.tickDevices.tickClocks.tickPower_eq
  simp [hp, hd.cfg, hd.tod, hd.now]

/-- Reset and power-off keep the configuration (R460). -/
theorem State.hostControl_cfg (s : State) (i : HostInput) : (s.hostControl i).cfg = s.cfg := by
  unfold State.hostControl
  split <;> rfl

theorem State.foldl_hostControl_cfg (l : List HostInput) (s : State) : (l.foldl State.hostControl s).cfg = s.cfg := by
  induction l generalizing s with
  | nil => rfl
  | cons i l ih => exact (ih _).trans (s.hostControl_cfg i)

@[simp] theorem State.tick_cfg (s : State) : s.tick.cfg = s.cfg :=
  (State.foldl_hostControl_cfg _ _).trans s.tickPhases_bus.1

/-- A tick in which the host does nothing (R370). -/
theorem State.tick_clock {s : State} (h : s.inputs = []) : s.tick.tod = s.tod + 1 ∧ s.tick.now = s.now + 1 := by
  obtain ⟨-, htod, hnow⟩ := s.tickPhases_bus
  have hdue : s.dueInputs = [] := by simp [State.dueInputs, h]
  simp [State.tick, hdue, htod, hnow]

/-! ## The order of turns -/

@[simp] theorem State.takeTurn_cfg (s : State) (c : Cpu) (rest : List Cpu) : (s.takeTurn c rest).cfg = s.cfg := by
  obtain ⟨-, n, e⟩ := s.takeTurn_spec c rest
  rw [e]

@[simp] theorem State.takeTurn_tod (s : State) (c : Cpu) (rest : List Cpu) : (s.takeTurn c rest).tod = s.tod := by
  obtain ⟨-, n, e⟩ := s.takeTurn_spec c rest
  rw [e]

@[simp] theorem State.takeTurn_now (s : State) (c : Cpu) (rest : List Cpu) : (s.takeTurn c rest).now = s.now := by
  obtain ⟨-, n, e⟩ := s.takeTurn_spec c rest
  rw [e]

@[simp] theorem State.passTurn_cfg (s : State) : s.passTurn.cfg = s.cfg := by
  unfold State.passTurn
  split
  · simp [State.startTick]
  · simp

/-- With no turn left to take, the tick ends (R480). -/
theorem State.passTurn_clock {s : State} (ht : s.todo = []) (hi : s.inputs = []) :
    s.passTurn.tod = s.tod + 1 ∧ s.passTurn.now = s.now + 1 := by
  simpa [State.passTurn, ht, State.startTick] using State.tick_clock hi

@[simp] theorem State.endTurn_cfg (s : State) : s.endTurn.cfg = s.cfg :=
  s.dmaGap.passTurn_cfg.trans s.quiet_dmaGap.cfg

theorem State.endTurn_clock {s : State} (ht : s.todo = []) (hi : s.inputs = []) :
    s.endTurn.tod = s.tod + 1 ∧ s.endTurn.now = s.now + 1 := by
  have hq := s.quiet_dmaGap
  have hclock := State.passTurn_clock (hq.sameBus.todo ht) (hq.inputs.trans hi)
  rwa [hq.tod, hq.now] at hclock

/-- Settles O56: the turn leaves the bus alone, and the end of the turn keeps the configuration and, when no other
processor has a turn to come and the host does nothing, ends the tick. -/
theorem stepsTickUnderOneConfiguration : Obligations.StepsTickUnderOneConfiguration := by
  intro s t h
  obtain ⟨u, hu, rfl⟩ := step_next_endTurn h
  refine ⟨u.endTurn_cfg.trans hu.cfg, fun ht hi => ?_⟩
  have hclock := State.endTurn_clock (hu.todo ht) (hu.inputs.trans hi)
  rwa [hu.tod, hu.now] at hclock

end Sys2Proof.Machine
end

section
/-! PROOFS. Every step keeps the machine well formed (O57). What an instruction answers is built from few completing
operations, each of which keeps `State.WellFormed`; a step is a turn of these followed by `State.endTurn`. -/

namespace Sys2Proof.Machine

/-- The next state of an outcome, if it has one, is well formed. -/
def NextWellFormed (o : Out) : Prop := ∀ t, o = .next t → t.WellFormed

theorem nextWellFormed_next {t : State} (h : t.WellFormed) : NextWellFormed (.next t) := by
  intro u hu; injection hu with hu; exact hu ▸ h

theorem nextWellFormed_refused (r : Refusal) : NextWellFormed (.refused r) := fun _ h => nomatch h

theorem nextWellFormed_notInDelay {s : State} {o : Out} (ho : NextWellFormed o) : NextWellFormed (s.notInDelay o) :=
  fun t h => ho t (State.notInDelay_next h).2

theorem nextWellFormed_withTlbIndex {s : State} {f : TlbIx → Out} (hf : ∀ i, NextWellFormed (f i)) :
    NextWellFormed (s.withTlbIndex f) := fun t h => hf _ t (State.withTlbIndex_next h).2

/-! ## CP0 registers -/

/-- Reading a CP0 register changes nothing but the count of free values drawn (R263). -/
theorem State.cp0Read_drawn (s : State) (r : Option Cp0Reg) : ∃ n, (s.cp0Read r).2 = s.drawn n := by
  match r with
  | some .status =>
    show ∃ n, s.statusRead.2 = s.drawn n
    unfold State.statusRead
    split
    · exact ⟨0, rfl⟩
    · exact ⟨1, rfl⟩
  | none => exact ⟨1, rfl⟩
  | some .index | some .random | some .entryLo | some .badVAddr | some .timer | some .entryHi | some .cause
  | some .epc | some .prid => exact ⟨0, rfl⟩

theorem Cpu.cp0Write_prid (cfg : Config) (c : Cpu) (v : Word) (r : Option Cp0Reg) :
    (c.cp0Write cfg v r).prid = c.prid := by
  unfold Cpu.cp0Write
  split <;> rfl

/-- A TLB index lies within the bits that Index has (R42). -/
theorem tlbIndexWord_within_indexMask (i : TlbIx) : tlbIndexWord i &&& ~~~indexMask = 0 := by
  revert i; decide

/-! ## Ways to complete -/

section
variable {s : State} (hw : s.WellFormed)
include hw

theorem State.mem_wf : s.mem.wf = true := hw.2.1

theorem State.wellFormed_drawn (n : Nat) : (s.drawn n).WellFormed := hw

/-- A change of the current processor alone. -/
theorem State.wellFormed_withCpu {c : Cpu} (hc : c.wf s.cfg = true) (hp : c.prid = s.cpu.prid) :
    ({ s with cpu := c } : State).WellFormed :=
  State.wellFormed_cpu c s.mem s.draws hw hc hp (State.mem_wf hw)

theorem State.wellFormed_retireReg (r : Reg) (v : Word) : (s.retireReg r v).WellFormed :=
  State.wellFormed_withCpu hw (Cpu.wf_setReg r v (Cpu.wf_advance (State.cpu_wf hw))) (Cpu.setReg_prid _ _ _)

theorem State.wellFormed_retireLoad (r : Reg) (v : Word) : (s.retireLoad r v).WellFormed :=
  State.wellFormed_cpu _ s.mem (s.draws + 1) hw (Cpu.wf_setReg r v (Cpu.wf_advance (State.cpu_wf hw)))
    (Cpu.setReg_prid _ _ _) (State.mem_wf hw)

theorem State.wellFormed_retireHiLo (hi lo : Word) : (s.retireHiLo hi lo).WellFormed :=
  State.wellFormed_withCpu hw (State.cpu_wf hw) rfl

theorem State.wellFormed_retireBranch (target : Option Word) : (s.retireBranch target).WellFormed :=
  State.wellFormed_withCpu hw (Cpu.wf_branch target (State.cpu_wf hw)) rfl

theorem State.wellFormed_retireLink (r : Reg) (target : Option Word) : (s.retireLink r target).WellFormed :=
  State.wellFormed_withCpu hw (Cpu.wf_setReg r _ (Cpu.wf_branch target (State.cpu_wf hw))) (Cpu.setReg_prid _ _ _)

/-- The current processor changes, and the instruction completes. -/
theorem State.wellFormed_withCpu_retire {c : Cpu} (hc : c.wf s.cfg = true) (hp : c.prid = s.cpu.prid) :
    ({ s with cpu := c } : State).retire.WellFormed :=
  State.wellFormed_retire (State.wellFormed_withCpu hw hc hp)

/-! ## Guards and shared meanings -/

theorem nextWellFormed_enter (e : Exc) : NextWellFormed (.next (s.enter e)) :=
  nextWellFormed_next (State.wellFormed_enter e hw)

theorem nextWellFormed_withCp0 {o : Out} (ho : NextWellFormed o) : NextWellFormed (s.withCp0 o) := by
  intro t h
  rcases State.withCp0_next h with ⟨-, h⟩ | ⟨-, rfl⟩
  · exact ho t h
  · exact State.wellFormed_enter _ hw

theorem nextWellFormed_finish {r : Res State} (hr : ∀ u, r = .ok u → u.WellFormed) : NextWellFormed (s.finish r) :=
  fun _ => State.wellFormed_finish r hw hr

theorem nextWellFormed_trapOrWrite (rd : Reg) (n : Int) : NextWellFormed (s.trapOrWrite rd n) := by
  unfold State.trapOrWrite
  split
  · exact nextWellFormed_enter hw .ov
  · exact nextWellFormed_next (State.wellFormed_retireReg hw _ _)

theorem nextWellFormed_branchIf (taken : Bool) (off : Half) : NextWellFormed (s.branchIf taken off) :=
  nextWellFormed_notInDelay (nextWellFormed_next (State.wellFormed_retireBranch hw _))

theorem nextWellFormed_branchLinkIf (rs : Reg) (taken : Bool) (off : Half) :
    NextWellFormed (s.branchLinkIf rs taken off) := by
  refine nextWellFormed_notInDelay ?_
  split
  · exact nextWellFormed_refused _
  · exact nextWellFormed_next (State.wellFormed_retireLink hw _ _)

/-- A load reads a value and at most draws free values (`State.memLoad_cases`). -/
theorem nextWellFormed_load (w : Width) (ea : Word) (rt : Reg) (ext : Word → Word) :
    NextWellFormed (s.load w ea rt ext) := by
  refine nextWellFormed_finish hw fun u hu => ?_
  rcases s.memLoad_cases w ea with ⟨v, n, e⟩ | ⟨_, e⟩ | e <;> rw [e] at hu
  · injection hu with hu
    exact hu ▸ State.wellFormed_retireLoad (State.wellFormed_drawn hw n) rt (ext v)
  · cases hu
  · cases hu

theorem nextWellFormed_loadAround (ea : Word) (rt : Reg) (merge : Word → Word → Word) :
    NextWellFormed (s.loadAround ea rt merge) := by
  refine nextWellFormed_finish hw fun u hu => ?_
  cases hm : s.memLoadAround ea with
  | ok v => rw [hm] at hu; injection hu with hu; exact hu ▸ State.wellFormed_retireLoad hw _ _
  | exc e => rw [hm] at hu; cases hu
  | refuse r => rw [hm] at hu; cases hu

theorem nextWellFormed_store (w : Width) (ea v : Word) : NextWellFormed (s.finish (s.memStore w ea v)) :=
  nextWellFormed_finish hw fun _ => State.wellFormed_memStore w ea v hw

theorem nextWellFormed_storeAround (ea v : Word) (lanes : Nat → Bool) :
    NextWellFormed (s.finish (s.memStoreAround ea v lanes)) :=
  nextWellFormed_finish hw fun _ => State.wellFormed_memStoreAround ea v lanes hw

/-! ## The instructions with an effect of their own -/

/-- The memory after the compare and swap, whether or not it swapped (R290). -/
theorem State.memCas_wf {ea expected new : Word} {p : Bool × Memory} (h : s.memCas ea expected new = .ok p) :
    p.2.wf = true := by
  unfold State.memCas at h
  split at h
  · cases h
  · split at h
    · split at h
      · injection h with h; exact h ▸ Memory.wf_writeWord _ _ _ _ (State.mem_wf hw)
      · injection h with h; exact h ▸ (State.mem_wf hw)
    · injection h with h; exact h ▸ (State.mem_wf hw)

theorem nextWellFormed_cas (rd rs rt : Reg) : NextWellFormed (execCas rd rs rt s) := by
  refine nextWellFormed_finish hw fun u hu => ?_
  cases hm : s.memCas (s.cpu.src rs) (s.cpu.src rt) (s.cpu.src rd) with
  | ok p =>
    rw [hm] at hu
    injection hu with hu
    have hreg := State.wellFormed_retireReg hw rd (boolWord p.1)
    exact hu ▸ State.wellFormed_cpu _ p.2 _ hreg (State.cpu_wf hreg) rfl (State.memCas_wf hw hm)
  | exc e => rw [hm] at hu; cases hu
  | refuse r => rw [hm] at hu; cases hu

theorem nextWellFormed_mfc0 (rt rd : Reg) : NextWellFormed (execMfc0 rt rd s) := by
  refine nextWellFormed_withCp0 hw (nextWellFormed_next ?_)
  obtain ⟨n, hn⟩ := s.cp0Read_drawn (s.cp0Of rd)
  rw [hn]
  exact State.wellFormed_retireLoad (State.wellFormed_drawn hw n) _ _

/-- Index after TLBP, found or not (R268). -/
theorem State.wellFormed_probed : s.probed.WellFormed := by
  have hindex : ∀ v : Word, v &&& ~~~indexMask = 0 → ({ s.cpu with index := v } : Cpu).wf s.cfg = true := by
    intro v hv
    obtain ⟨hgpr, hstatus, hcause, -, hrest⟩ := (Cpu.wf_iff _ _).1 (State.cpu_wf hw)
    exact (Cpu.wf_iff _ _).2 ⟨hgpr, hstatus, hcause, hv, hrest⟩
  unfold State.probed
  split
  · exact State.wellFormed_withCpu hw (hindex _ (tlbIndexWord_within_indexMask _)) rfl
  · have hfree := mergeBits_keeps 0x3F00#32 indexMask 0x80000000#32 (Config.freeWord s.draws) (by decide) (by decide)
    exact State.wellFormed_drawn (State.wellFormed_withCpu hw (hindex _ hfree) rfl) 1

/-! ## Every instruction -/

/-- An instruction that completes keeps the machine well formed. -/
theorem exec_wellFormed (i : Instr) : NextWellFormed (exec i s) := by
  have hcpu := State.cpu_wf hw
  cases i
  case add | sub | addi => exact nextWellFormed_trapOrWrite hw _ _
  case addu | subu | and | or | xor | nor | slt | sltu | addiu | slti | sltiu | andi | ori | xori | lui
      | sll | srl | sra | sllv | srlv | srav | mfhi | mflo =>
    exact nextWellFormed_next (State.wellFormed_retireReg hw _ _)
  case mult | multu | mthi | mtlo => exact nextWellFormed_next (State.wellFormed_retireHiLo hw _ _)
  case div | divu =>
    refine nextWellFormed_next ?_
    split
    · exact State.wellFormed_retireHiLo hw _ _
    · exact State.wellFormed_retireHiLo hw _ _
  case lb | lbu | lh | lhu | lw =>
    simp only [exec, execLb, execLbu, execLh, execLhu, execLw]
    exact nextWellFormed_load hw _ _ _ _
  case lwl | lwr => exact nextWellFormed_loadAround hw _ _ _
  case sb | sh | sw => exact nextWellFormed_store hw _ _ _
  case swl | swr => exact nextWellFormed_storeAround hw _ _ _
  case j | jr => exact nextWellFormed_notInDelay (nextWellFormed_next (State.wellFormed_retireBranch hw _))
  case jal => exact nextWellFormed_notInDelay (nextWellFormed_next (State.wellFormed_retireLink hw _ _))
  case jalr =>
    refine nextWellFormed_notInDelay ?_
    split
    · exact nextWellFormed_refused _
    · exact nextWellFormed_next (State.wellFormed_retireLink hw _ _)
  case beq | bne | blez | bgtz | bltz | bgez => exact nextWellFormed_branchIf hw _ _
  case bltzal | bgezal => exact nextWellFormed_branchLinkIf hw _ _ _
  case syscall | brk => exact nextWellFormed_enter hw _
  case mfc0 => exact nextWellFormed_mfc0 hw _ _
  case mtc0 =>
    exact nextWellFormed_withCp0 hw (nextWellFormed_next
      (State.wellFormed_withCpu_retire hw (Cpu.wf_cp0Write _ _ hcpu) (Cpu.cp0Write_prid _ _ _ _)))
  case tlbr =>
    exact nextWellFormed_withCp0 hw (nextWellFormed_withTlbIndex fun i =>
      nextWellFormed_next (State.wellFormed_withCpu_retire hw (Cpu.wf_tlbReadAt i hcpu) rfl))
  case tlbwi =>
    exact nextWellFormed_withCp0 hw (nextWellFormed_withTlbIndex fun i =>
      nextWellFormed_next (State.wellFormed_withCpu_retire hw (Cpu.wf_tlbSet i _ hcpu (Cpu.wf_entryHeld hcpu)) rfl))
  case tlbwr =>
    exact nextWellFormed_withCp0 hw (nextWellFormed_next
      (State.wellFormed_withCpu_retire hw (Cpu.wf_tlbSet _ _ hcpu (Cpu.wf_entryHeld hcpu)) rfl))
  case tlbp =>
    exact nextWellFormed_withCp0 hw (nextWellFormed_next (State.wellFormed_retire (State.wellFormed_probed hw)))
  case rfe =>
    exact nextWellFormed_withCp0 hw (nextWellFormed_next
      (State.wellFormed_withCpu_retire hw (Cpu.wf_returnFromException hcpu) rfl))
  case wait =>
    exact nextWellFormed_withCp0 hw (nextWellFormed_next (State.wellFormed_withCpu_retire hw hcpu rfl))
  case cas => exact nextWellFormed_cas hw _ _ _

end

/-! ## The turn and the step -/

/-- Everything an instruction word can do: an exception, or the meaning of an instruction (R149). -/
theorem State.execute_next {s t : State} {w : Word} (h : s.execute w = .next t) :
    (∃ e, t = s.enter e) ∨ ∃ i, exec i s = .next t := by
  unfold State.execute at h
  split at h
  case h_1 i _ => exact .inr ⟨i, h⟩
  case h_2 | h_4 => injection h with h; exact .inl ⟨_, h.symm⟩
  case h_3 => split at h <;> (injection h with h; exact .inl ⟨_, h.symm⟩)
  case h_5 => cases h

/-- Everything the turn of a Running processor can do. -/
theorem State.runTurn_next {s t : State} (h : s.runTurn = .next t) :
    (∃ e, t = s.enter e) ∨ ∃ i, exec i s = .next t := by
  unfold State.runTurn at h
  split at h
  · injection h with h; exact .inl ⟨_, h.symm⟩
  · split at h
    · exact State.execute_next h
    · injection h with h; exact .inl ⟨_, h.symm⟩
    · cases h

/-- Everything a step can do: the processor stays as it is, idles, takes an exception or executes an instruction, and
then its turn ends (R480). -/
theorem step_next {s t : State} (h : step s = .next t) :
    ∃ u, t = u.endTurn ∧ (u = s ∨ u = s.idleTurn ∨ (∃ e, u = s.enter e) ∨ ∃ i, exec i s = .next u) := by
  unfold step at h
  split at h
  · cases h
  · unfold State.turn at h
    split at h <;> obtain ⟨u, hu, rfl⟩ := turnOver_next h
    case h_1 | h_4 => injection hu with hu; exact ⟨u, rfl, .inl hu.symm⟩
    case h_2 => injection hu with hu; exact ⟨u, rfl, .inr (.inl hu.symm)⟩
    case h_3 => exact ⟨u, rfl, .inr (.inr (State.runTurn_next hu))⟩

theorem State.wellFormed_idleTurn {s : State} (h : s.WellFormed) : s.idleTurn.WellFormed := by
  unfold State.idleTurn
  split
  · exact State.wellFormed_withCpu h (State.cpu_wf h) rfl
  · exact h

/-- Settles O57: whatever the turn does keeps the machine well formed, and so does the end of the turn. -/
theorem stepKeepsWellFormed : Obligations.StepKeepsWellFormed := by
  intro s t hw h
  obtain ⟨u, rfl, hu⟩ := step_next h
  refine State.wellFormed_endTurn ?_
  rcases hu with rfl | rfl | ⟨e, rfl⟩ | ⟨i, hi⟩
  · exact hw
  · exact State.wellFormed_idleTurn hw
  · exact State.wellFormed_enter e hw
  · exact exec_wellFormed hw i u hi

end Sys2Proof.Machine
end

section
/-! PROOFS. The bits that an exception entry and its return move, what an entry does as a whole (R32, R340-R344), the
words of coprocessors 1 to 3 (O4), and the KU/IE stacks with the acceptance of interrupts (O46). -/

namespace Sys2Proof.Machine

/-! ## Fields of a merge -/

theorem mergeBits_getLsbD (m old new : Word) (i : Nat) :
    (mergeBits m old new).getLsbD i = if m.getLsbD i then new.getLsbD i else old.getLsbD i := by
  by_cases hi : i < 32
  · simp only [mergeBits, BitVec.getLsbD_or, BitVec.getLsbD_and, BitVec.getLsbD_not, hi, decide_true]
    cases m.getLsbD i <;> simp
  · simp [BitVec.getLsbD_of_ge _ i (Nat.le_of_not_lt hi)]

/-- A field that a merge replaces. -/
theorem mergeBits_extract_new {m : Word} {a n : Nat} (h : ∀ i < n, m.getLsbD (a + i) = true) (old new : Word) :
    (mergeBits m old new).extractLsb' a n = new.extractLsb' a n := by
  refine BitVec.eq_of_getLsbD_eq fun i hi => ?_
  simp [BitVec.getLsbD_extractLsb', mergeBits_getLsbD, h i hi]

/-- A field that a merge keeps. -/
theorem mergeBits_extract_old {m : Word} {a n : Nat} (h : ∀ i < n, m.getLsbD (a + i) = false) (old new : Word) :
    (mergeBits m old new).extractLsb' a n = old.extractLsb' a n := by
  refine BitVec.eq_of_getLsbD_eq fun i hi => ?_
  simp [BitVec.getLsbD_extractLsb', mergeBits_getLsbD, h i hi]

/-- A field read back where it was placed. -/
theorem extractLsb'_setWidth_shiftLeft {n : Nat} (x : BitVec n) (a : Nat) (h : a + n ≤ 32) :
    (x.setWidth 32 <<< a : Word).extractLsb' a n = x := by
  refine BitVec.eq_of_getLsbD_eq fun i hi => ?_
  have h1 : a + i < 32 := by omega
  simp [hi, h1]

/-! ## The KU/IE stack -/

/-- The push: the current and previous pairs become the previous and old ones, and the current pair is 0 (R32). -/
theorem pushKuIe_stack (st : Word) : (pushKuIe st).extractLsb' 0 6 = st.extractLsb' 0 4 ++ (0 : BitVec 2) := by
  rw [pushKuIe, mergeBits_extract_new (by decide)]
  refine BitVec.eq_of_getLsbD_eq fun i hi => ?_
  simp only [BitVec.getLsbD_append, BitVec.getLsbD_extractLsb']
  interval_cases i <;> simp

theorem pushKuIe_rest (st : Word) : (pushKuIe st).extractLsb' 6 26 = st.extractLsb' 6 26 :=
  mergeBits_extract_old (by decide) _ _

/-- The pop: the previous and old pairs become the current and previous ones (R32). -/
theorem popKuIe_stack (st : Word) : (popKuIe st).extractLsb' 0 4 = st.extractLsb' 2 4 := by
  rw [popKuIe, mergeBits_extract_new (by decide)]
  refine BitVec.eq_of_getLsbD_eq fun i hi => ?_
  simp [BitVec.getLsbD_extractLsb', BitVec.getLsbD_ushiftRight]

theorem popKuIe_old (st : Word) : (popKuIe st).extractLsb' 4 2 = st.extractLsb' 4 2 :=
  mergeBits_extract_old (by decide) _ _

theorem popKuIe_rest (st : Word) : (popKuIe st).extractLsb' 6 26 = st.extractLsb' 6 26 :=
  mergeBits_extract_old (by decide) _ _

/-- The pop after a push brings the pushed pairs back. -/
theorem popKuIe_pushKuIe_stack (st : Word) : (popKuIe (pushKuIe st)).extractLsb' 0 4 = st.extractLsb' 0 4 := by
  have hpush := pushKuIe_stack st
  rw [popKuIe_stack]
  refine BitVec.eq_of_getLsbD_eq fun i hi => ?_
  have hbit := congrArg (fun x : BitVec 6 => x.getLsbD (2 + i)) hpush
  have h6 : 2 + i < 6 := by omega
  have h2 : ¬ 2 + i < 2 := by omega
  simp only [BitVec.getLsbD_append, BitVec.getLsbD_extractLsb', h6, h2, hi, decide_true, Bool.true_and, Nat.zero_add,
    Nat.add_sub_cancel_left, ite_false] at hbit ⊢
  simpa [hi] using hbit

/-! ## Cause -/

/-- Cause.BD after an entry (R342). -/
theorem causeAfter_bd (c : Cpu) (e : Exc) : (causeAfter c e).getLsbD 31 = c.inDelay := by
  unfold causeAfter
  dsimp only
  split <;> simp only [mergeBits_getLsbD] <;> cases c.inDelay <;> rfl

/-- Cause.ExcCode after any entry, also one that writes CE (R340). -/
theorem causeAfter_excCode (c : Cpu) (e : Exc) : (causeAfter c e).extractLsb' 2 5 = e.code := by
  unfold causeAfter
  dsimp only
  split
  · rw [mergeBits_extract_old (by decide), mergeBits_extract_new (by decide),
      extractLsb'_setWidth_shiftLeft _ _ (by decide)]
  · rw [mergeBits_extract_new (by decide), extractLsb'_setWidth_shiftLeft _ _ (by decide)]

/-- Cause.CE after an entry: written by CpU only (R343, D9). -/
theorem causeAfter_ce (c : Cpu) (e : Exc) :
    (causeAfter c e).extractLsb' 28 2 = e.copNumber.getD (c.cause.extractLsb' 28 2) := by
  unfold causeAfter
  dsimp only
  split
  · next z hz =>
    rw [mergeBits_extract_new (by decide), extractLsb'_setWidth_shiftLeft _ _ (by decide), hz, Option.getD_some]
  · next hz => rw [mergeBits_extract_old (by decide), mergeBits_extract_old (by decide), hz, Option.getD_none]

/-! ## Exception entry -/

/-- EntryHi.VPN after an entry (R343). -/
theorem Cpu.enter_vpn (c : Cpu) (e : Exc) :
    (c.enter e).entryHi.extractLsb' 12 20 = (e.pageAddr.getD c.entryHi).extractLsb' 12 20 := by
  unfold Cpu.enter
  cases e.pageAddr with
  | none => rfl
  | some va => exact mergeBits_extract_new (by decide) _ _

/-- An entry leaves the bits of EntryHi below the VPN alone (R343). -/
theorem Cpu.enter_asid (c : Cpu) (e : Exc) :
    (c.enter e).entryHi.extractLsb' 0 12 = c.entryHi.extractLsb' 0 12 := by
  unfold Cpu.enter
  cases e.pageAddr with
  | none => rfl
  | some va => exact mergeBits_extract_old (by decide) _ _

/-- What `State.enter` does, in the terms of Sys2Proof/Safety.lean (R340-R344). -/
theorem State.enter_entered (s : State) (e : Exc) : s.Entered (s.enter e) e :=
  ⟨rfl, causeAfter_bd _ e, causeAfter_excCode _ e, causeAfter_ce _ e, rfl, Cpu.enter_vpn _ e, Cpu.enter_asid _ e,
    pushKuIe_stack _, pushKuIe_rest _, rfl, rfl, rfl, rfl, fun _ => rfl, ⟨rfl, rfl⟩,
    by simp [Cpu.SamePrivate, State.enter], fun _ => rfl, by simp [State.SameMachine, State.enter]⟩

/-! ## Coprocessor words -/

/-- The three primary opcodes of coprocessor `z` (R144, R152). -/
theorem decode_coprocessor {w : Word} {z : BitVec 2} (hz : z ≠ 0)
    (h : fOp w ∈ [0x10#6 + z.setWidth 6, 0x30#6 + z.setWidth 6, 0x38#6 + z.setWidth 6]) :
    decode w = .copUnusable z := by
  have hz' : z = 1 ∨ z = 2 ∨ z = 3 := by clear h; revert z; decide
  simp only [List.mem_cons, List.not_mem_nil, or_false] at h
  rcases hz' with rfl | rfl | rfl <;> rcases h with h | h | h <;> simp [decode, h]

/-- A word that decodes to a coprocessor's traps with its number (R271). -/
theorem State.execute_copUnusable {s : State} {w : Word} {z : BitVec 2} (h : decode w = .copUnusable z) :
    s.Takes (s.execute w) (.copUnusable z) :=
  ⟨s.enter (.copUnusable z), by rw [State.execute, h], s.enter_entered _⟩

/-- Settles O4: the words decode to the trap of their coprocessor, whatever the mode. -/
theorem coprocessorWordsTrap : Obligations.CoprocessorWordsTrap := fun _ _ =>
  ⟨fun h => State.execute_copUnusable (decode_coprocessor (z := 1) (by decide) h),
    fun h => State.execute_copUnusable (decode_coprocessor (z := 2) (by decide) h),
    fun h => State.execute_copUnusable (decode_coprocessor (z := 3) (by decide) h)⟩

/-! ## Acceptance of interrupts -/

theorem bits8_getLsbD (f : Nat → Bool) {i : Nat} (h : i < 8) : (bits8 f).getLsbD i = f i := by
  simp only [bits8, BitVec.getLsbD_append, BitVec.getLsbD_ofBool]
  interval_cases i <;> simp

/-- An interrupt is accepted when IEc is 1 and a pending line is not masked (R351). -/
theorem State.intAccepted_iff (s : State) : s.intAccepted = true ↔ s.cpu.status.getLsbD 0 = true ∧
    ∃ l < 8, s.cpu.status.getLsbD (8 + l) = true ∧ s.linePending s.cpu l = true := by
  have hbit : ∀ l < 8, (s.causeIP s.cpu &&& statusIM s.cpu.status).getLsbD l =
      (s.linePending s.cpu l && s.cpu.status.getLsbD (8 + l)) := by
    intro l hl
    simp only [State.causeIP, statusIM, BitVec.getLsbD_and, bits8_getLsbD _ hl, BitVec.getLsbD_extractLsb', hl,
      decide_true, Bool.true_and]
  have hne : s.causeIP s.cpu &&& statusIM s.cpu.status ≠ 0 ↔
      ∃ l < 8, s.cpu.status.getLsbD (8 + l) = true ∧ s.linePending s.cpu l = true := by
    constructor
    · intro hne
      by_contra hall
      refine hne (BitVec.eq_of_getLsbD_eq fun l hl => ?_)
      rw [hbit l hl]
      cases hp : s.linePending s.cpu l <;> cases hm : s.cpu.status.getLsbD (8 + l) <;> simp
      exact hall ⟨l, hl, hm, hp⟩
    · rintro ⟨l, hl, hm, hp⟩ hzero
      simpa [hzero, hm, hp] using hbit l hl
  rw [State.intAccepted, Bool.and_eq_true, bne_iff_ne, hne]
  rfl

/-- MTC0 to Status in kernel mode (R264, R36). -/
theorem exec_mtc0_status {s : State} {rt rd : Reg} (hk : s.cpu.status.getLsbD 1 = false)
    (hr : s.cp0Of rd = some .status) :
    exec (.mtc0 rt rd) s =
      .next ({ s with cpu := { s.cpu with status := s.cpu.src rt &&& 0x1FFFFFFF#32 } } : State).retire := by
  have hu : s.cpu.cp0Usable = true := by rw [Cpu.cp0Usable, statusKUc, hk]; rfl
  simp [exec, execMtc0, State.withCp0, hu, hr, Cpu.cp0Write]

/-- Settles O46: the laws of the push and the pop, of acceptance, and of MTC0 to Status. -/
theorem kuIeStacks : Obligations.KuIeStacks := by
  intro s e rt rd
  refine ⟨pushKuIe_stack _, popKuIe_stack _, popKuIe_old _, popKuIe_pushKuIe_stack _,
    (popKuIe_rest _).trans (pushKuIe_rest _), fun hie => ?_, fun hie => ?_, fun hk hr => ?_⟩
  · rw [Bool.eq_false_iff, ne_eq, State.intAccepted_iff, hie]
    exact fun h => Bool.false_ne_true h.1
  · rw [State.intAccepted_iff, and_iff_right hie]
  · refine ⟨_, exec_mtc0_status hk hr, ?_⟩
    show (s.cpu.src rt &&& 0x1FFFFFFF#32).extractLsb' 0 6 = _
    refine BitVec.eq_of_getLsbD_eq fun i hi => ?_
    interval_cases i <;> simp

end Sys2Proof.Machine
end

section
/-! PROOFS. Random (O55), the source registers (O6), the step of a decoded instruction (O48) and the state after reset
(O59). -/

namespace Sys2Proof.Machine

/-! ## Random -/

/-- Random over a tick of a processor that is not Halted (R41). -/
theorem Cpu.tick_random {cfg : Config} {c : Cpu} (h : c.power ≠ .halted) : (c.tick cfg).random = c.nextRandom cfg := by
  rw [Cpu.tick, if_neg h]

/-- Random counts down within its range and starts again below it (R41). -/
theorem Cpu.nextRandom_toNat {cfg : Config} {c : Cpu} (hv : cfg.valid = true) (hc : 1 ≤ c.random.toNat) :
    (c.nextRandom cfg).toNat = if c.random.toNat = 1 then cfg.tlbSize - 1 else c.random.toNat - 1 := by
  have ht := Config.valid_tlbSize hv
  unfold Cpu.nextRandom
  split
  · rw [if_pos (by omega), BitVec.toNat_ofNat]; omega
  · rw [if_neg (by omega)]; bv_omega

/-- Nothing in the clock phase but the processor's own tick moves Random. -/
theorem State.tickClocks_random {s : State} (h : s.cpu.power ≠ .halted) :
    s.tickClocks.cpu.random = s.cpu.nextRandom s.cfg := by
  obtain ⟨_, hq⟩ := s.quiet_tickInterval
  have hsame : s.cpu.SameButSignal s.tickInterval.cpu := hq.cpu
  unfold Cpu.SameButSignal at hsame
  show (Cpu.tick s.cfg s.tickInterval.cpu).random = _
  rw [← hsame]
  exact Cpu.tick_random h

/-- Settles O55: one tick of Random. -/
theorem randomCountsDown : Obligations.RandomCountsDown := by
  intro s hv hp h1 _
  have ht := Config.valid_tlbSize hv
  rw [State.tickClocks_random hp, Cpu.nextRandom_toNat hv h1]
  refine ⟨rfl, ?_⟩
  split <;> omega

/-! ## Sources -/

/-- Settles O6: register 0 and the two readings of a load delay slot. -/
theorem sourceReads : Obligations.SourceReads := by
  intro c r
  refine ⟨c.src_of_none r, fun d hd => ?_, c.reg_zero⟩
  rcases c.src_cases r with h | ⟨d', hd', hr, h⟩
  · exact .inl h
  · obtain rfl : d = d' := Option.some.inj (hd.symm.trans hd')
    exact .inr ⟨hr, h⟩

/-! ## A step of a decoded instruction -/

/-- A fetch from readable memory (R96). -/
theorem State.fetch_readable {s : State} {pa : Nat} (ht : s.Reaches .fetch .word s.cpu.pc pa) (hr : s.Readable pa) :
    s.fetch = .ok (s.mem.readWord s.cfg.bigEndian pa) := by
  obtain ⟨p, hp, rfl⟩ := ht
  unfold State.fetch
  rw [hp]
  rcases hr with h | h | h <;> simp [h]

/-- The step of a Running processor without an interrupt is the execution of the word it fetches (R480). -/
theorem step_execute {s : State} {w : Word} (hs : s.stopped = false) (hp : s.cpu.power = .running)
    (hi : s.intAccepted = false) (hf : s.fetch = .ok w) : step s = turnOver (s.execute w) := by
  simp [step, State.turn, State.runTurn, hs, hp, hi, hf]

/-- Settles O48: the fetched word decodes to the instruction, and the turn ends with its outcome. -/
theorem stepRunsDecoded : Obligations.StepRunsDecoded := by
  intro s pa i hs hp hi ht hr hd
  have hstep : step s = turnOver (exec i s) := by
    rw [step_execute hs hp hi (State.fetch_readable ht hr), State.execute, hd]
  rw [hstep]
  refine ⟨fun t h => ?_, fun f h => ?_, fun r h => ?_⟩ <;> rw [h] <;> rfl

/-! ## Reset -/

theorem reset_reg (r : Reg) : State.reset.cpu.reg r = 0 := by
  simp [Cpu.reg, State.reset, Cpu.atReset]

theorem reset_irtEntry (e : Nat) : State.reset.irtEntry e = 0 := by
  by_cases h : e < 48 <;> simp [State.irtEntry, State.reset, h]

/-- Settles O59: the fields of `State.reset`, and no pending line. -/
theorem resetValues : Obligations.ResetValues :=
  ⟨rfl, rfl, rfl, rfl, reset_reg, rfl, rfl, rfl, rfl, by decide, rfl, rfl, rfl, rfl, rfl, rfl, rfl, rfl, rfl, rfl, rfl,
    rfl, reset_irtEntry, rfl, rfl⟩

end Sys2Proof.Machine
end

section
/-! PROOFS. The TLB and the address translation (20_memory.md R110-R116): the slot that the probe finds (O42), what the
translation reads (O51), its result case by case (O52), and the addresses that user mode reaches (O53). -/

namespace Sys2Proof.Machine

/-! ## Alignment, the TLB floor and the physical address -/

theorem extractLsb'_zero_beq_zero (n : Nat) (w : Word) : (w.extractLsb' 0 n == 0) = true ↔ w.toNat % 2 ^ n = 0 := by
  rw [beq_iff_eq, ← BitVec.toNat_inj]
  simp

/-- An address is aligned for a width when the bytes of the width divide it (R102). -/
theorem Width.aligned_iff (w : Width) (va : Word) : w.aligned va = true ↔ va.toNat % w.bytes = 0 := by
  cases w with
  | byte => simp [Width.aligned, Width.bytes, Nat.mod_one]
  | half => exact extractLsb'_zero_beq_zero 1 va
  | word => exact extractLsb'_zero_beq_zero 2 va

/-- The first address that is translated; with the TLB off, past every address (R116). -/
def tlbFloorAddr (cfg : Config) : Nat :=
  match cfg.tlbFloor with
  | .vmOff => 2 ^ 32
  | .kuseg => 0x80000000
  | .kseg2 => 0x40000000
  | .ramTop => 0x20000000 + 4096 * cfg.ramFrames

theorem Config.ramTop_eq (cfg : Config) : cfg.ramTop = 0x20000000 + 4096 * cfg.ramFrames := by
  rw [Config.ramTop, Config.ramSize, Nat.mul_comm]

/-- The addresses at and above the TLB floor are translated (R116). -/
theorem mapped_iff (cfg : Config) (va : Word) : mapped cfg va = true ↔ tlbFloorAddr cfg ≤ va.toNat := by
  unfold mapped tlbFloorAddr
  cases cfg.tlbFloor with
  | vmOff => simpa using va.isLt
  | kuseg => exact decide_eq_true_iff
  | kseg2 => exact decide_eq_true_iff
  | ramTop => rw [← Config.ramTop_eq]; exact decide_eq_true_iff

/-- A frame lies below RAM exactly when its EntryLo does as a number: the bits under the PFN are below a page. -/
theorem physical_below_ram_iff (lo va : Word) :
    (pfnOf lo ++ offsetOf va).toNat < 0x20000000 ↔ lo.toNat < 0x20000000 := by
  have hoff := (offsetOf va).isLt
  have hpfn : (pfnOf lo).toNat = lo.toNat / 4096 := by
    have := lo.isLt
    simp only [pfnOf, BitVec.extractLsb'_toNat, Nat.shiftRight_eq_div_pow]
    omega
  rw [BitVec.toNat_append, ← Nat.shiftLeft_add_eq_or_of_lt hoff, Nat.shiftLeft_eq, hpfn]
  omega

/-! ## The slot that the TLB finds -/

theorem TlbEntry.matchesPage_iff (e : TlbEntry) (vpn : BitVec 20) (asid : BitVec 6) :
    e.matchesPage vpn asid = true ↔ e.hi.extractLsb' 12 20 = vpn ∧
      (e.lo.getLsbD 8 = true ∨ e.hi.extractLsb' 6 6 = asid) := by
  simp [TlbEntry.matchesPage, vpnOf, entryG, asidOf]

/-- No slot below `n` matches when the search below `n` finds none (R113). -/
theorem Cpu.tlbFind_none {c : Cpu} {vpn : BitVec 20} {asid : BitVec 6} {n : Nat} (hf : c.tlbFind vpn asid n = none)
    (i : TlbIx) (hi : i.toNat < n) : ¬ (c.tlbGet i).matchesPage vpn asid = true := by
  induction n with
  | zero => omega
  | succ n ih =>
    rw [Cpu.tlbFind] at hf
    split at hf
    · cases hf
    · next hn =>
      by_cases hin : i.toNat = n
      · rwa [← hin, BitVec.ofNat_toNat, BitVec.setWidth_eq] at hn
      · exact ih hf (by omega)

/-- The search below `n` finds a matching slot, and no slot between it and `n` matches (R113). -/
theorem Cpu.tlbFind_some {c : Cpu} {vpn : BitVec 20} {asid : BitVec 6} {n : Nat} (hn : n ≤ 64) {i : TlbIx}
    (hf : c.tlbFind vpn asid n = some i) :
    i.toNat < n ∧ (c.tlbGet i).matchesPage vpn asid = true ∧
      ∀ j : TlbIx, j.toNat < n → (c.tlbGet j).matchesPage vpn asid = true → j.toNat ≤ i.toNat := by
  induction n with
  | zero => cases hf
  | succ n ih =>
    rw [Cpu.tlbFind] at hf
    split at hf
    · next hm =>
      injection hf with hf
      subst hf
      have hslot : (BitVec.ofNat 6 n).toNat = n := by rw [BitVec.toNat_ofNat]; omega
      exact ⟨by omega, hm, fun j hj _ => by omega⟩
    · next hm =>
      obtain ⟨hlt, hi, hmax⟩ := ih (by omega) hf
      refine ⟨by omega, hi, fun j hj hmj => ?_⟩
      by_cases hjn : j.toNat = n
      · exact absurd (by rwa [← hjn, BitVec.ofNat_toNat, BitVec.setWidth_eq]) hm
      · exact hmax j (by omega) hmj

theorem State.matches_iff (s : State) (vpn : BitVec 20) (i : TlbIx) :
    s.Matches vpn i ↔
      i.toNat < s.cfg.tlbSize ∧ (s.cpu.tlbGet i).matchesPage vpn (asidOf s.cpu.entryHi) = true := by
  rw [TlbEntry.matchesPage_iff]
  rfl

/-- With no matching slot the probe finds none (R112). -/
theorem State.tlbProbe_of_no_match {s : State} {vpn : BitVec 20} (hv : s.cfg.valid = true)
    (hno : ∀ i, ¬ s.Matches vpn i) : s.cpu.tlbProbe s.cfg vpn = none := by
  cases hf : s.cpu.tlbProbe s.cfg vpn with
  | none => rfl
  | some i =>
    obtain ⟨hlt, hm, -⟩ := Cpu.tlbFind_some (Config.valid_tlbSize hv).2 hf
    exact absurd ((s.matches_iff vpn i).2 ⟨hlt, hm⟩) (hno i)

/-- The probe finds the highest matching slot (R113, D10). -/
theorem State.tlbProbe_of_highest {s : State} {vpn : BitVec 20} {i : TlbIx} (hv : s.cfg.valid = true)
    (hi : s.Matches vpn i) (hmax : ∀ j, s.Matches vpn j → j.toNat ≤ i.toNat) :
    s.cpu.tlbProbe s.cfg vpn = some i := by
  obtain ⟨hilt, him⟩ := (s.matches_iff vpn i).1 hi
  cases hf : s.cpu.tlbProbe s.cfg vpn with
  | none => exact absurd him (Cpu.tlbFind_none hf i hilt)
  | some k =>
    obtain ⟨hklt, hkm, hkmax⟩ := Cpu.tlbFind_some (Config.valid_tlbSize hv).2 hf
    have hki := hmax k ((s.matches_iff vpn k).2 ⟨hklt, hkm⟩)
    have hik := hkmax i hilt him
    rw [BitVec.eq_of_toNat_eq (Nat.le_antisymm hki hik)]

/-! ## TLBP -/

theorem tlbIndexWord_toNat (i : TlbIx) : (tlbIndexWord i).toNat = 256 * i.toNat := by
  have := i.isLt
  simp only [tlbIndexWord, BitVec.toNat_shiftLeft, BitVec.toNat_setWidth, Nat.shiftLeft_eq]
  omega

/-- TLBP writes Index and nothing else of the processor, found or not (R268). -/
theorem State.probed_eq (s : State) :
    ∃ v n, s.probed = State.drawn { s with cpu := { s.cpu with index := v } } n := by
  unfold State.probed
  split
  · exact ⟨tlbIndexWord _, 0, rfl⟩
  · exact ⟨_ ||| _, 1, rfl⟩

/-- What TLBP leaves alone (R268). -/
theorem State.probed_frame (s : State) :
    s.cpu.SameControl { s.probed.retire.cpu with index := s.cpu.index } ∧ s.cpu.SameRegs s.probed.retire.cpu ∧
    s.cpu.SameHiLo s.probed.retire.cpu ∧ s.cpu.Retired s.probed.retire.cpu ∧ s.SameMem s.probed.retire ∧
    s.SameMachine s.probed.retire := by
  obtain ⟨v, n, hp⟩ := s.probed_eq
  rw [hp]
  exact ⟨Cpu.SameControl.refl s.cpu, s.retire_with_cpu { s.cpu with index := v } rfl rfl rfl rfl⟩

theorem State.probed_index_of_some {s : State} {i : TlbIx}
    (h : s.cpu.tlbProbe s.cfg (vpnOf s.cpu.entryHi) = some i) : s.probed.cpu.index = tlbIndexWord i := by
  rw [State.probed, h]

theorem State.probed_index_of_none {s : State} (h : s.cpu.tlbProbe s.cfg (vpnOf s.cpu.entryHi) = none) :
    s.probed.cpu.index.getLsbD 31 = true := by
  simp [State.probed, h]

/-- Where CP0 is usable a CP0 instruction has its effect (R260). -/
theorem State.withCp0_of_privileged {s : State} (h : s.cpu.unprivileged = false) (effect : Out) :
    s.withCp0 effect = effect := by
  have hu : s.cpu.cp0Usable = true := by
    simpa only [Cpu.cp0Usable, Cpu.unprivileged, Bool.not_and, Bool.not_not, Bool.not_false] using congrArg Bool.not h
  rw [State.withCp0, if_pos hu]

/-- Settles O42: TLBP answers what the probe finds, in Index alone. -/
theorem tlbProbeCompletes : Obligations.TlbProbeCompletes := by
  intro s hu hv
  obtain ⟨hctl, hregs, hhilo, hret, hmem, hmach⟩ := s.probed_frame
  refine ⟨s.probed.retire, s.withCp0_of_privileged hu _, hctl, hregs, hhilo, hret, hmem, hmach, fun i hi hmax => ?_,
    fun hno => ?_⟩
  · show s.probed.cpu.index.toNat = _
    rw [State.probed_index_of_some (s.tlbProbe_of_highest hv hi hmax), tlbIndexWord_toNat]
  · exact State.probed_index_of_none (s.tlbProbe_of_no_match hv hno)

/-! ## The cases of the translation -/

section
variable {cfg : Config} {c : Cpu} {k : Access} {w : Width} {va : Word}

theorem translateAddr_misaligned (h : va.toNat % w.bytes ≠ 0) :
    translateAddr cfg c k w va = .error (.addressError k va) := by
  have ha : ¬ w.aligned va = true := fun ha => h ((w.aligned_iff va).1 ha)
  simp [translateAddr, ha]

/-- The user-mode test comes before the TLB floor (D26). -/
theorem translateAddr_userSegment (hu : c.status.getLsbD 1 = true) (hva : va.toNat < 0x80000000) :
    translateAddr cfg c k w va = .error (.addressError k va) := by
  have hseg : statusKUc c.status = true ∧ va.toNat < 0x80000000 := ⟨hu, hva⟩
  rw [translateAddr, if_pos hseg, ite_self]

/-- Past the two tests of the address itself, the TLB floor decides (R110 step 3). -/
theorem translateAddr_past_tests (ha : va.toNat % w.bytes = 0)
    (hu : c.status.getLsbD 1 = false ∨ 0x80000000 ≤ va.toNat) :
    translateAddr cfg c k w va = if mapped cfg va then translateMapped cfg c k va else .ok va := by
  have hseg : ¬ (statusKUc c.status = true ∧ va.toNat < 0x80000000) := by
    rintro ⟨hk, hlt⟩
    rcases hu with hu | hu
    · exact Bool.false_ne_true (hu.symm.trans hk)
    · omega
  rw [translateAddr, if_neg (by simp [(w.aligned_iff va).2 ha]), if_neg hseg]

theorem translateMapped_of_none (h : c.tlbProbe cfg (vpnOf va) = none) :
    translateMapped cfg c k va = .error (.tlbRefill k va) := by
  rw [translateMapped, h]

/-- The translation through a matching slot (R110 steps 4 and 5). -/
theorem translateMapped_of_some {i : TlbIx} (h : c.tlbProbe cfg (vpnOf va) = some i) :
    translateMapped cfg c k va =
      if (c.tlbGet i).lo.getLsbD 9 = false then .error (.tlbInvalid k va)
      else if k = .store ∧ (c.tlbGet i).lo.getLsbD 10 = false then .error (.mod va)
      else if c.status.getLsbD 1 = true ∧ (c.tlbGet i).lo.toNat < 0x20000000 then .error (.addressError k va)
      else .ok (pfnOf (c.tlbGet i).lo ++ offsetOf va) := by
  simp only [translateMapped, h, physical_below_ram_iff, entryV, entryD, statusKUc, and_comm, Bool.not_eq_eq_eq_not,
    Bool.not_true]

/-- Everything the translation at and above the TLB floor can answer: an exception that is no Address Error but for user
mode below RAM, or a physical address that user mode does not have below RAM (R110). -/
theorem translateMapped_cases (cfg : Config) (c : Cpu) (k : Access) (va : Word) :
    (∃ e, translateMapped cfg c k va = .error e ∧
      ((∃ j vb, e = .addressError j vb) → c.status.getLsbD 1 = true)) ∨
    ∃ pa, translateMapped cfg c k va = .ok pa ∧ (c.status.getLsbD 1 = true → 0x20000000 ≤ pa.toNat) := by
  cases hp : c.tlbProbe cfg (vpnOf va) with
  | none => exact .inl ⟨_, translateMapped_of_none hp, by rintro ⟨_, _, he⟩; cases he⟩
  | some i =>
    rw [translateMapped_of_some hp]
    split_ifs with hv hd hu
    · exact .inl ⟨_, rfl, by rintro ⟨_, _, he⟩; cases he⟩
    · exact .inl ⟨_, rfl, by rintro ⟨_, _, he⟩; cases he⟩
    · exact .inl ⟨_, rfl, fun _ => hu.1⟩
    · refine .inr ⟨_, rfl, fun hk => ?_⟩
      have hlo : ¬ (c.tlbGet i).lo.toNat < 0x20000000 := fun hlt => hu ⟨hk, hlt⟩
      rw [← physical_below_ram_iff _ va] at hlo
      omega

/-- In kernel mode an access of bytes raises no Address Error (R102, R82). -/
theorem translateAddr_kernel_byte (hk : c.status.getLsbD 1 = false) (j : Access) (vb : Word) :
    translateAddr cfg c k .byte va ≠ .error (.addressError j vb) := by
  rw [translateAddr_past_tests (Nat.mod_one _) (.inl hk)]
  split
  · rcases translateMapped_cases cfg c k va with ⟨e, he, hae⟩ | ⟨pa, hpa, -⟩
    · rw [he]
      rintro ⟨rfl⟩
      exact Bool.false_ne_true (hk.symm.trans (hae ⟨j, vb, rfl⟩))
    · rw [hpa]; nofun
  · nofun

end

/-! ## What the translation reads -/

theorem Cpu.tlbGet_congr {c c' : Cpu} (h : c'.tlb = c.tlb) (i : TlbIx) : c'.tlbGet i = c.tlbGet i := by
  simp only [Cpu.tlbGet, h]

theorem Cpu.tlbFind_congr {c c' : Cpu} (h : c'.tlb = c.tlb) (vpn : BitVec 20) (asid : BitVec 6) (n : Nat) :
    c'.tlbFind vpn asid n = c.tlbFind vpn asid n := by
  induction n with
  | zero => rfl
  | succ n ih => rw [Cpu.tlbFind, Cpu.tlbFind, Cpu.tlbGet_congr h, ih]

/-- Settles O51: each part of the translation reads only what the statement names. -/
theorem translationReadsOnly : Obligations.TranslationReadsOnly := by
  intro cfg cfg' c c' k w va hfloor hram hsize hku hasid htlb
  have hku' : statusKUc c'.status = statusKUc c.status := hku
  have hasid' : asidOf c'.entryHi = asidOf c.entryHi := hasid
  have hmapped : mapped cfg' va = mapped cfg va := by
    rw [Bool.eq_iff_iff, mapped_iff, mapped_iff, tlbFloorAddr, hfloor, hram]
    rfl
  have hprobe : ∀ vpn, c'.tlbProbe cfg' vpn = c.tlbProbe cfg vpn := fun vpn => by
    rw [Cpu.tlbProbe, Cpu.tlbProbe, hsize, hasid', Cpu.tlbFind_congr htlb]
  have htranslate : translateMapped cfg' c' k va = translateMapped cfg c k va := by
    simp only [translateMapped, hprobe, Cpu.tlbGet_congr htlb, hku']
  rw [translateAddr, translateAddr, hku', hmapped, htranslate]

/-! ## The statements -/

/-- Settles O52: the tests of the address, then the floor, then the slot that the probe finds. -/
theorem translationFollowsTlb : Obligations.TranslationFollowsTlb := by
  intro s k w va floor hv hfloor
  have hmapped : mapped s.cfg va = true ↔ floor ≤ va.toNat := hfloor ▸ mapped_iff s.cfg va
  refine ⟨?_, fun ha hu => ?_⟩
  · rintro (ha | ⟨hu, hlt⟩)
    · exact translateAddr_misaligned ha
    · exact translateAddr_userSegment hu hlt
  rw [translateAddr_past_tests ha hu]
  refine ⟨fun hlt => ?_, fun hge hno => ?_, fun i hge hi hmax => ?_⟩
  · rw [if_neg (by rw [hmapped]; omega)]
  · rw [if_pos (hmapped.2 hge), translateMapped_of_none (s.tlbProbe_of_no_match hv hno)]
  · rw [if_pos (hmapped.2 hge), translateMapped_of_some (s.tlbProbe_of_highest hv hi hmax)]
    rfl

/-- Settles O53: user mode has no address that the tests refuse, and past them none below RAM. -/
theorem userAddresses : Obligations.UserAddresses := by
  intro cfg c k w va pa hu ht
  have ha : va.toNat % w.bytes = 0 := by
    by_contra ha
    rw [translateAddr_misaligned ha] at ht
    cases ht
  have hva : 0x80000000 ≤ va.toNat := by
    by_contra hva
    rw [translateAddr_userSegment hu (by omega)] at ht
    cases ht
  refine ⟨hva, ?_⟩
  rw [translateAddr_past_tests ha (.inr hva)] at ht
  split at ht
  · rcases translateMapped_cases cfg c k va with ⟨e, he, -⟩ | ⟨p, hp, hram⟩
    · rw [he] at ht; cases ht
    · rw [hp] at ht
      cases ht
      exact hram hu
  · cases ht
    omega

end Sys2Proof.Machine
end

section
/-! PROOFS. The accesses that take an exception (20_memory.md R82, R92, R94, R102; 60_exceptions.md R337, R345): the
Address Errors of alignment (O23) and of user mode (O24), refused translations and bus errors with the physical map
(O25). Each access answers the exception of its translation or of its region; each instruction takes the exception of
its access. -/

namespace Sys2Proof.Machine

/-! ## An access that raises an exception -/

section
variable {s : State} {w : Width} {ea v : Word} {e : Exc}

theorem State.memLoad_refused (h : translateAddr s.cfg s.cpu .load w ea = .error e) : s.memLoad w ea = .exc e := by
  rw [State.memLoad, h]

theorem State.memLoadAround_refused (h : translateAddr s.cfg s.cpu .load .byte ea = .error e) :
    s.memLoadAround ea = .exc e := by
  rw [State.memLoadAround, h]

theorem State.memStore_refused (h : translateAddr s.cfg s.cpu .store w ea = .error e) : s.memStore w ea v = .exc e := by
  rw [State.memStore, h]

theorem State.memStoreAround_refused (lanes : Nat → Bool) (h : translateAddr s.cfg s.cpu .store .byte ea = .error e) :
    s.memStoreAround ea v lanes = .exc e := by
  rw [State.memStoreAround, h]

theorem State.memCas_refused (expected new : Word) (h : translateAddr s.cfg s.cpu .store .word ea = .error e) :
    s.memCas ea expected new = .exc e := by
  rw [State.memCas, h]

theorem State.fetch_refused (h : translateAddr s.cfg s.cpu .fetch .word s.cpu.pc = .error e) : s.fetch = .exc e := by
  rw [State.fetch, h]

variable {pa : Nat}

/-- A load where nothing is (R92). -/
theorem State.memLoad_undefined (ht : s.Reaches .load w ea pa) (hr : regionOf s.cfg pa = .undefined) :
    s.memLoad w ea = .exc (.busError .load ea) := by
  obtain ⟨p, hp, rfl⟩ := ht
  simp only [State.memLoad, hp, State.physLoad, hr]

theorem State.memLoadAround_undefined (ht : s.Reaches .load .byte ea pa)
    (hr : regionOf s.cfg (alignedAddr pa) = .undefined) : s.memLoadAround ea = .exc (.busError .load ea) := by
  obtain ⟨p, hp, rfl⟩ := ht
  simp only [State.memLoadAround, hp, State.physLoadAround, hr]

/-- A store where nothing is, or to a ROM (R92, R94, D22). -/
theorem State.memStore_unwritable (ht : s.Reaches .store w ea pa) (hr : regionOf s.cfg pa ∈ [.undefined, .rom]) :
    s.memStore w ea v = .exc (.busError .store ea) := by
  obtain ⟨p, hp, rfl⟩ := ht
  simp only [List.mem_cons, List.not_mem_nil, or_false] at hr
  rcases hr with hr | hr <;> simp only [State.memStore, hp, State.physStore, hr]

theorem State.memStoreAround_unwritable (lanes : Nat → Bool) (ht : s.Reaches .store .byte ea pa)
    (hr : regionOf s.cfg (alignedAddr pa) ∈ [.undefined, .rom]) :
    s.memStoreAround ea v lanes = .exc (.busError .store ea) := by
  obtain ⟨p, hp, rfl⟩ := ht
  simp only [List.mem_cons, List.not_mem_nil, or_false] at hr
  rcases hr with hr | hr <;> simp only [State.memStoreAround, hp, State.physStoreAround, hr]

end

/-! ## An instruction whose access raises an exception -/

theorem State.takes_enter (s : State) (e : Exc) : s.Takes (.next (s.enter e)) e := ⟨_, rfl, s.enter_entered e⟩

section
variable {s : State} {rt base : Reg} {off : Half} {e : Exc}

theorem State.finish_takes {r : Res State} (h : r = .exc e) : s.Takes (s.finish r) e := by
  rw [h]
  exact s.takes_enter e

/-- A load whose access raises an exception writes no register. -/
theorem State.finish_map_takes {α : Type} {r : Res α} {f : α → State} (h : r = .exc e) :
    s.Takes (s.finish (r.map f)) e :=
  State.finish_takes (by rw [h, Res.map_exc])

theorem byteLoads_take (h : s.memLoad .byte (s.ea base off) = .exc e) :
    ∀ i ∈ [Instr.lb rt base off, .lbu rt base off], s.Takes (exec i s) e := by
  simp only [List.forall_mem_cons]
  exact ⟨State.finish_map_takes h, State.finish_map_takes h, nofun⟩

theorem halfLoads_take (h : s.memLoad .half (s.ea base off) = .exc e) :
    ∀ i ∈ [Instr.lh rt base off, .lhu rt base off], s.Takes (exec i s) e := by
  simp only [List.forall_mem_cons]
  exact ⟨State.finish_map_takes h, State.finish_map_takes h, nofun⟩

theorem lw_takes (h : s.memLoad .word (s.ea base off) = .exc e) : s.Takes (exec (.lw rt base off) s) e :=
  State.finish_map_takes h

theorem unalignedLoads_take (h : s.memLoadAround (s.ea base off) = .exc e) :
    ∀ i ∈ [Instr.lwl rt base off, .lwr rt base off], s.Takes (exec i s) e := by
  simp only [List.forall_mem_cons]
  exact ⟨State.finish_map_takes h, State.finish_map_takes h, nofun⟩

theorem sb_takes (h : s.memStore .byte (s.ea base off) (s.cpu.src rt) = .exc e) :
    s.Takes (exec (.sb rt base off) s) e :=
  State.finish_takes h

theorem sh_takes (h : s.memStore .half (s.ea base off) (s.cpu.src rt) = .exc e) :
    s.Takes (exec (.sh rt base off) s) e :=
  State.finish_takes h

theorem sw_takes (h : s.memStore .word (s.ea base off) (s.cpu.src rt) = .exc e) :
    s.Takes (exec (.sw rt base off) s) e :=
  State.finish_takes h

theorem unalignedStores_take (h : ∀ v lanes, s.memStoreAround (s.ea base off) v lanes = .exc e) :
    ∀ i ∈ [Instr.swl rt base off, .swr rt base off], s.Takes (exec i s) e := by
  simp only [List.forall_mem_cons]
  exact ⟨State.finish_takes (h _ _), State.finish_takes (h _ _), nofun⟩

theorem cas_takes {rd rs : Reg} (h : s.memCas (s.cpu.src rs) (s.cpu.src rt) (s.cpu.src rd) = .exc e) :
    s.Takes (exec (.cas rd rs rt) s) e :=
  State.finish_map_takes h

/-- The step of a Running processor without an interrupt whose fetch raises an exception (R480). -/
theorem step_fetch_exc (hs : s.stopped = false) (hp : s.cpu.power = .running) (hi : s.intAccepted = false)
    (hf : s.fetch = .exc e) : step s = .next (s.enter e).endTurn := by
  simp [step, State.turn, State.runTurn, turnOver, hs, hp, hi, hf]

end

/-! ## Address Errors -/

/-- The address of a load or store with offset 0 is the address of a CAS (R220, R290). -/
theorem Cpu.src_add_zero (c : Cpu) (base : Reg) : c.src base + (0 : Half).signExtend 32 = c.src base := by
  simp

/-- Settles O23: alignment is the first test of the translation, and an access of bytes always passes it. -/
theorem misalignedAccessTraps : Obligations.MisalignedAccessTraps := by
  rintro s rt base off ea rfl
  refine ⟨fun h => ?_, fun h => ?_, fun rd rs h => ?_, fun h hs hp hi => ?_, fun hk k va j vb => ?_⟩
  · have hl := halfLoads_take (rt := rt) (State.memLoad_refused (s := s) (translateAddr_misaligned (w := .half) h))
    exact ⟨hl _ (by simp), hl _ (by simp), sh_takes (State.memStore_refused (translateAddr_misaligned h))⟩
  · exact ⟨lw_takes (State.memLoad_refused (translateAddr_misaligned h)),
      sw_takes (State.memStore_refused (translateAddr_misaligned h))⟩
  · exact cas_takes (State.memCas_refused _ _ (translateAddr_misaligned h))
  · exact step_fetch_exc hs hp hi (State.fetch_refused (translateAddr_misaligned h))
  · exact translateAddr_kernel_byte hk j vb

/-- Settles O24: every translation of user mode refuses the kernel segments, one of bytes in kernel mode none. -/
theorem userSegmentTraps : Obligations.UserSegmentTraps := by
  rintro s rt base off ea rfl
  refine ⟨fun hu hva => ?_, fun hu hpc hs hp hi => ?_, fun hk k va => translateAddr_kernel_byte hk k va⟩
  · have hseg := fun k w => translateAddr_userSegment (cfg := s.cfg) (k := k) (w := w) hu hva
    refine ⟨?_, ?_, fun rd hoff => ?_⟩
    · exact List.forall_mem_append.2 ⟨byteLoads_take (State.memLoad_refused (hseg _ _)),
        List.forall_mem_append.2 ⟨halfLoads_take (State.memLoad_refused (hseg _ _)),
          List.forall_mem_cons.2 ⟨lw_takes (State.memLoad_refused (hseg _ _)),
            unalignedLoads_take (State.memLoadAround_refused (hseg _ _))⟩⟩⟩
    · exact List.forall_mem_cons.2 ⟨sb_takes (State.memStore_refused (hseg _ _)),
        List.forall_mem_cons.2 ⟨sh_takes (State.memStore_refused (hseg _ _)),
          List.forall_mem_cons.2 ⟨sw_takes (State.memStore_refused (hseg _ _)),
            unalignedStores_take fun _ lanes => State.memStoreAround_refused lanes (hseg _ _)⟩⟩⟩
    · subst hoff
      have hcas := hseg .store .word
      rw [Cpu.src_add_zero] at hcas ⊢
      exact cas_takes (State.memCas_refused _ _ hcas)
  · exact step_fetch_exc hs hp hi (State.fetch_refused (translateAddr_userSegment hu hpc))

/-! ## The physical map -/

/-- The areas of a valid configuration do not overlap (R9, R10, R85). -/
theorem Config.valid_areas {cfg : Config} (h : cfg.valid = true) :
    cfg.execSize ≤ 0x0FFFF000 ∧ 0x1FC00000 + cfg.bootSize ≤ 0x20000000 ∧ 0x100002D4 ≤ cfg.irtBase ∧
      cfg.irtBase ≤ 0x10000340 := by
  simp only [Config.valid, Bool.and_eq_true, decide_eq_true_eq] at h
  obtain ⟨⟨⟨⟨-, hexec, -⟩, hboot, -⟩, hirtLow, hirtHigh, -⟩, -⟩ := h
  exact ⟨hexec, hboot, hirtLow, hirtHigh⟩

theorem busRegister_none (n : Nat) : busRegister n = none ↔ 11 ≤ n := by
  unfold busRegister
  split
  case h_12 => grind
  all_goals simp

theorem interfaceRegister_none (n : Nat) : interfaceRegister n = none ↔ 5 ≤ n := by
  unfold interfaceRegister
  split
  case h_6 => grind
  all_goals simp

theorem controlRegister_none (n : Nat) : controlRegister n = none ↔ 6 ≤ n := by
  unfold controlRegister
  split
  case h_7 => grind
  all_goals simp

/-- An address outside the areas of registers (R85). -/
def OutsideRegisters (cfg : Config) (a : Nat) : Prop :=
  a < 0x10000000 ∨ (0x100002D4 ≤ a ∧ a < cfg.irtBase) ∨ (cfg.irtBase + 0xC0 ≤ a ∧ a ≤ 0x100003FF) ∨
  (0x10000414 ≤ a ∧ a ≤ 0x100004FF) ∨ 0x10000518 ≤ a

theorem registerAt_none {cfg : Config} (hv : cfg.valid = true) (a : Nat) :
    registerAt cfg a = none ↔ OutsideRegisters cfg a := by
  obtain ⟨-, -, hirtLow, hirtHigh⟩ := Config.valid_areas hv
  unfold registerAt OutsideRegisters
  split_ifs <;>
    simp only [busRegister_none, interfaceRegister_none, controlRegister_none, true_iff, false_iff] <;>
    omega

/-- What lies at an address, range by range (R85). -/
theorem regionOf_cases {cfg : Config} (hv : cfg.valid = true) (a : Nat) :
    (regionOf cfg a = .rom ∧ (a < cfg.execSize ∨ (0x1FC00000 ≤ a ∧ a < 0x1FC00000 + cfg.bootSize))) ∨
    (regionOf cfg a = .biosData ∧ 0x0FFFF000 ≤ a ∧ a ≤ 0x0FFFFFFF) ∨
    (regionOf cfg a = .ram ∧ 0x20000000 ≤ a ∧ a < cfg.ramTop) ∨
    ((∃ r, regionOf cfg a = .register r) ∧ ¬ OutsideRegisters cfg a) ∨
    (regionOf cfg a = .undefined ∧ OutsideRegisters cfg a ∧ cfg.execSize ≤ a ∧
      ¬ (0x0FFFF000 ≤ a ∧ a ≤ 0x0FFFFFFF) ∧ ¬ (0x1FC00000 ≤ a ∧ a < 0x1FC00000 + cfg.bootSize) ∧
      ¬ (0x20000000 ≤ a ∧ a < cfg.ramTop)) := by
  obtain ⟨hexec, hboot, -, -⟩ := Config.valid_areas hv
  unfold regionOf
  split_ifs with hrom hbios hbootRom hram
  · exact .inl ⟨rfl, .inl hrom.1⟩
  · exact .inr (.inl ⟨rfl, by omega⟩)
  · exact .inl ⟨rfl, .inr ⟨hbootRom.1, hbootRom.2.1⟩⟩
  · exact .inr (.inr (.inl ⟨rfl, hram⟩))
  · cases hreg : registerAt cfg a with
    | some r =>
      have hin : ¬ OutsideRegisters cfg a := by rw [← registerAt_none hv, hreg]; nofun
      exact .inr (.inr (.inr (.inl ⟨⟨r, rfl⟩, hin⟩)))
    | none =>
      have hout := (registerAt_none hv a).1 hreg
      exact .inr (.inr (.inr (.inr ⟨rfl, hout, by omega, by omega, by omega, hram⟩)))

/-- The content of each address, as a range (R85-R87, R90-R92): the ranges of `regionOf_cases` are disjoint. -/
theorem physicalMap {cfg : Config} (hv : cfg.valid = true) (a : Nat) :
    (regionOf cfg a = .ram ↔ 0x20000000 ≤ a ∧ a < 0x20000000 + 4096 * cfg.ramFrames) ∧
    (regionOf cfg a = .biosData ↔ 0x0FFFF000 ≤ a ∧ a ≤ 0x0FFFFFFF) ∧
    (regionOf cfg a = .rom ↔ a < cfg.execSize ∨ (0x1FC00000 ≤ a ∧ a < 0x1FC00000 + cfg.bootSize)) ∧
    (regionOf cfg a = .undefined ↔
      (cfg.execSize ≤ a ∧ a ≤ 0x0FFFEFFF) ∨ (0x100002D4 ≤ a ∧ a < cfg.irtBase) ∨
      (cfg.irtBase + 0xC0 ≤ a ∧ a ≤ 0x100003FF) ∨ (0x10000414 ≤ a ∧ a ≤ 0x100004FF) ∨
      (0x10000518 ≤ a ∧ a ≤ 0x1FBFFFFF) ∨ (0x1FC00000 + cfg.bootSize ≤ a ∧ a ≤ 0x1FFFFFFF) ∨
      0x20000000 + 4096 * cfg.ramFrames ≤ a) := by
  obtain ⟨hexec, hboot, hirtLow, hirtHigh⟩ := Config.valid_areas hv
  rw [← Config.ramTop_eq]
  have htop : 0x20000000 ≤ cfg.ramTop := Nat.le_add_right _ _
  have hcases := regionOf_cases hv a
  unfold OutsideRegisters at hcases
  rcases hcases with ⟨h, ha⟩ | ⟨h, ha⟩ | ⟨h, ha⟩ | ⟨⟨r, h⟩, ha⟩ | ⟨h, ha⟩ <;>
    simp only [h, reduceCtorEq, true_iff, false_iff] <;>
    omega

/-! ## Data accesses -/

/-- Settles O25: a refused translation, then the region that the access reaches. -/
theorem dataAccessTraps : Obligations.DataAccessTraps := by
  rintro s rt base off pa ea rfl
  refine ⟨fun e h => ?byteLoads, fun e h => halfLoads_take (State.memLoad_refused h),
    fun e h => lw_takes (State.memLoad_refused h), fun e h => ?byteStores,
    fun e h => sh_takes (State.memStore_refused h),
    fun e h => ⟨sw_takes (State.memStore_refused h), fun rd hoff => ?cas⟩,
    fun ht => ⟨fun hr => byteLoads_take (State.memLoad_undefined ht hr),
      fun hr => unalignedLoads_take (State.memLoadAround_undefined ht hr)⟩,
    fun ht hr => halfLoads_take (State.memLoad_undefined ht hr),
    fun ht hr => lw_takes (State.memLoad_undefined ht hr),
    fun ht => ⟨fun hr => sb_takes (State.memStore_unwritable ht hr),
      fun hr => unalignedStores_take fun _ lanes => State.memStoreAround_unwritable lanes ht hr⟩,
    fun ht hr => sh_takes (State.memStore_unwritable ht hr),
    fun ht hr => sw_takes (State.memStore_unwritable ht hr), fun hv => physicalMap hv⟩
  case byteLoads =>
    exact List.forall_mem_append.2 ⟨byteLoads_take (State.memLoad_refused h),
      unalignedLoads_take (State.memLoadAround_refused h)⟩
  case byteStores =>
    exact List.forall_mem_cons.2 ⟨sb_takes (State.memStore_refused h),
      unalignedStores_take fun _ lanes => State.memStoreAround_refused lanes h⟩
  case cas =>
    subst hoff
    rw [Cpu.src_add_zero] at h
    exact cas_takes (State.memCas_refused _ _ h)

end Sys2Proof.Machine
end

section
/-! PROOFS. Encoding and decoding are inverse to each other (O1, O2): a word is the word of an instruction exactly when
its fields are the instruction's, and each opcode map of spec/30_encoding.md R144-R148 answers an instruction only for
such fields. -/

namespace Sys2Proof

/-! ## Fields that overlap -/

/-- Bits 10:0, which are zero in MFC0 and MTC0, are the fields `sa` and `funct` (R141, R147). -/
theorem low11_eq_zero_iff (w : Word) : w.extractLsb' 0 11 = 0#11 ↔ fSa w = 0 ∧ fFunct w = 0 := by
  simp only [fSa, fFunct, ← BitVec.toNat_inj, BitVec.extractLsb'_toNat, Nat.shiftRight_eq_div_pow, BitVec.reduceToNat]
  omega

/-- A COP0 operation of R148 has `rs` = 0x10 and its `funct` in the low bits of the target field. -/
theorem rs_funct_of_target {w : Word} {n : Nat} (hn : n < 64) (h : (fTarget w).toNat = n + 0x2000000) :
    fRs w = 0x10 ∧ (fFunct w).toNat = n := by
  simp only [fRs, fTarget, fFunct, ← BitVec.toNat_inj, BitVec.extractLsb'_toNat, Nat.shiftRight_eq_div_pow,
    BitVec.reduceToNat] at h ⊢
  omega

/-! ## The words of a format -/

theorem rWord_eq_iff {op : BitVec 6} {rs rt rd : Reg} {sa : BitVec 5} {f : BitVec 6} {w : Word} :
    rWord op rs rt rd sa f = w ↔
      fOp w = op ∧ fRs w = rs ∧ fRt w = rt ∧ fRd w = rd ∧ fSa w = sa ∧ fFunct w = f := by
  constructor
  · rintro rfl
    simp
  · rintro ⟨rfl, rfl, rfl, rfl, rfl, rfl⟩
    exact rWord_fields w

theorem iWord_eq_iff {op : BitVec 6} {rs rt : Reg} {imm : Half} {w : Word} :
    iWord op rs rt imm = w ↔ fOp w = op ∧ fRs w = rs ∧ fRt w = rt ∧ fImm w = imm := by
  constructor
  · rintro rfl
    simp
  · rintro ⟨rfl, rfl, rfl, rfl⟩
    exact iWord_fields w

theorem jWord_eq_iff {op : BitVec 6} {target : BitVec 26} {w : Word} :
    jWord op target = w ↔ fOp w = op ∧ fTarget w = target := by
  constructor
  · rintro rfl
    simp
  · rintro ⟨rfl, rfl⟩
    exact jWord_fields w

theorem codeWord_eq_iff {code : BitVec 20} {f : BitVec 6} {w : Word} :
    codeWord code f = w ↔ fOp w = 0 ∧ fCode w = code ∧ fFunct w = f := by
  constructor
  · rintro rfl
    simp
  · rintro ⟨hop, rfl, rfl⟩
    exact codeWord_fields w hop

/-! ## The opcode maps below the primary one -/

theorem decode_special {w : Word} (h : fOp w = 0x00) : decode w = decodeSpecial w := by simp [decode, h]

theorem decode_regimm {w : Word} (h : fOp w = 0x01) : decode w = decodeRegimm w := by simp [decode, h]

theorem decode_cop0 {w : Word} (h : fOp w = 0x10) : decode w = decodeCop0 w := by simp [decode, h]

/-- The COP0 words beside the operations of R148: MFC0, MTC0 and the reserved ones (R147, R153). -/
theorem decodeCop0_of_not_operation {w : Word}
    (h : fRs w = 0x10 → fFunct w ∉ [0x01#6, 0x02#6, 0x06#6, 0x08#6, 0x10#6, 0x20#6]) :
    decodeCop0 w =
      if fRs w = 0x00 ∧ w.extractLsb' 0 11 = 0#11 then .instr (.mfc0 (fRt w) (fRd w))
      else if fRs w = 0x04 ∧ w.extractLsb' 0 11 = 0#11 then .instr (.mtc0 (fRt w) (fRd w))
      else .cop0Reserved := by
  unfold decodeCop0
  split
  case h_7 =>
    split
    · next hrs => simp [(BitVec.toNat_eq_nat.1 hrs).2]
    · next hrs => simp [(BitVec.toNat_eq_nat.1 hrs).2]
    · next h0 h4 =>
      have hmfc0 : fRs w ≠ 0x00 := fun hrs => h0 (by rw [hrs]; rfl)
      have hmtc0 : fRs w ≠ 0x04 := fun hrs => h4 (by rw [hrs]; rfl)
      rw [if_neg (hmfc0 ·.1), if_neg (hmtc0 ·.1)]
  all_goals
    next htarget =>
    obtain ⟨hrs, hfunct⟩ := rs_funct_of_target (by decide) htarget
    exact absurd (by simp [(BitVec.toNat_eq_nat.1 hfunct).2]) (h hrs)

/-! ## From the instruction to its word and back -/

/-- Settles O1: the fields of the word select the row of the instruction in the map that its format names. -/
theorem decodeOfEncode : Obligations.DecodeOfEncode := by
  intro i
  cases i with
  | addi | addiu | slti | sltiu | andi | ori | xori | lb | lbu | lh | lhu | lw | lwl | lwr | sb | sh | sw | swl | swr
  | beq | bne | j | jal => simp [encode, decode]
  | lui | blez | bgtz => simp [encode, decode, Decoded.ifZero]
  | bltz | bgez | bltzal | bgezal => simp [encode, decode_regimm, decodeRegimm]
  | syscall | brk => simp [encode, decode_special, decodeSpecial]
  | mfc0 | mtc0 => simp [encode, decode_cop0, decodeCop0_of_not_operation, low11_eq_zero_iff]
  | tlbr | tlbwi | tlbwr | tlbp | rfe | wait => rfl
  | _ => simp [encode, decode_special, decodeSpecial, Decoded.ifZero]

/-! ## From a word to its instruction and back -/

/-- The instruction that an outcome of decoding answers, if it answers one, has the word `w`. -/
def Decoded.Encodes (w : Word) (d : Decoded) : Prop := ∀ i, d = .instr i → encode i = w

theorem Decoded.Encodes.instr {w : Word} {i : Instr} (h : encode i = w) : Decoded.Encodes w (.instr i) := by
  intro j hj; injection hj with hj; exact hj ▸ h

/-- A row with must-be-zero fields has to have the word only where these are zero (R151). -/
theorem Decoded.Encodes.ifZero {w : Word} {i : Instr} {zero : Bool} (h : zero = true → encode i = w) :
    Decoded.Encodes w (.ifZero zero i) := by
  cases zero with
  | false => nofun
  | true => exact .instr (h rfl)

theorem decodeSpecial_encodes {w : Word} (hop : fOp w = 0x00) : (decodeSpecial w).Encodes w := by
  unfold decodeSpecial
  dsimp only
  split
  case h_10 hf | h_11 hf => exact .instr (codeWord_eq_iff.2 ⟨hop, rfl, (BitVec.toNat_eq_nat.1 hf).2⟩)
  case h_30 => nofun
  all_goals
    next hf =>
    have hfunct := (BitVec.toNat_eq_nat.1 hf).2
    refine .ifZero fun hzero => rWord_eq_iff.2 ?_
    simp only [Bool.and_eq_true, beq_iff_eq] at hzero
    simp [hop, hfunct, hzero]

theorem decodeRegimm_encodes {w : Word} (hop : fOp w = 0x01) : (decodeRegimm w).Encodes w := by
  unfold decodeRegimm
  split
  case h_5 => nofun
  all_goals
    next hrt => exact .instr (iWord_eq_iff.2 ⟨hop, rfl, (BitVec.toNat_eq_nat.1 hrt).2, rfl⟩)

theorem decodeCop0_encodes {w : Word} (hop : fOp w = 0x10) : (decodeCop0 w).Encodes w := by
  unfold decodeCop0
  split
  case h_7 =>
    split
    case h_3 => nofun
    all_goals
      next hrs =>
      split
      · next hlow =>
        obtain ⟨hsa, hfunct⟩ := (low11_eq_zero_iff w).1 (beq_iff_eq.1 hlow)
        exact .instr (rWord_eq_iff.2 ⟨hop, (BitVec.toNat_eq_nat.1 hrs).2, rfl, rfl, hsa, hfunct⟩)
      · nofun
  all_goals
    next htarget => exact .instr (jWord_eq_iff.2 ⟨hop, (BitVec.toNat_eq_nat.1 htarget).2⟩)

theorem decode_encodes (w : Word) : (decode w).Encodes w := by
  unfold decode
  dsimp only
  split
  case h_1 hop => exact decodeSpecial_encodes (BitVec.toNat_eq_nat.1 hop).2
  case h_2 hop => exact decodeRegimm_encodes (BitVec.toNat_eq_nat.1 hop).2
  case h_3 hop | h_4 hop => exact .instr (jWord_eq_iff.2 ⟨(BitVec.toNat_eq_nat.1 hop).2, rfl⟩)
  case h_7 hop | h_8 hop =>
    exact .ifZero fun hrt => iWord_eq_iff.2 ⟨(BitVec.toNat_eq_nat.1 hop).2, rfl, beq_iff_eq.1 hrt, rfl⟩
  case h_16 hop =>
    exact .ifZero fun hrs => iWord_eq_iff.2 ⟨(BitVec.toNat_eq_nat.1 hop).2, beq_iff_eq.1 hrs, rfl, rfl⟩
  case h_17 hop => exact decodeCop0_encodes (BitVec.toNat_eq_nat.1 hop).2
  case h_18 | h_19 | h_20 | h_33 | h_34 | h_35 | h_36 | h_37 | h_38 | h_39 | h_40 | h_41 => nofun
  all_goals
    next hop => exact .instr (iWord_eq_iff.2 ⟨(BitVec.toNat_eq_nat.1 hop).2, rfl, rfl, rfl⟩)

/-- Settles O2: every row that a map answers has the fields of the word. -/
theorem encodeOfDecode : Obligations.EncodeOfDecode := fun w => decode_encodes w

end Sys2Proof
end

section
/-! PROOFS. The reserved words (O5): the values of each opcode map of spec/30_encoding.md R144-R148 that name no row,
and the exceptions that they raise. -/

namespace Sys2Proof

/-! ## Values that name no row -/

theorem decode_reserved {w : Word}
    (h : (0x14#6 ≤ fOp w ∧ fOp w ≤ 0x1F#6) ∨ (0x34#6 ≤ fOp w ∧ fOp w ≤ 0x37#6) ∨ 0x3C#6 ≤ fOp w ∨
      fOp w ∈ [0x27#6, 0x2C#6, 0x2D#6, 0x2F#6]) : decode w = .reserved := by
  simp only [BitVec.le_def, List.mem_cons, List.not_mem_nil, or_false, ← BitVec.toNat_inj, BitVec.reduceToNat] at h
  unfold decode
  dsimp only
  split
  case h_41 => rfl
  all_goals omega

theorem decodeSpecial_reserved {w : Word}
    (h : fFunct w ∈ [0x01#6, 0x05#6, 0x0A#6, 0x0E#6, 0x0F#6, 0x28#6, 0x29#6] ∨
      (0x14#6 ≤ fFunct w ∧ fFunct w ≤ 0x17#6) ∨ (0x1C#6 ≤ fFunct w ∧ fFunct w ≤ 0x1F#6) ∨ 0x2C#6 ≤ fFunct w) :
    decodeSpecial w = .reserved := by
  simp only [BitVec.le_def, List.mem_cons, List.not_mem_nil, or_false, ← BitVec.toNat_inj, BitVec.reduceToNat] at h
  unfold decodeSpecial
  dsimp only
  split
  case h_30 => rfl
  all_goals omega

theorem decodeRegimm_reserved {w : Word} (h : fRt w ∉ [0x00#5, 0x01#5, 0x10#5, 0x11#5]) :
    decodeRegimm w = .reserved := by
  simp only [List.mem_cons, List.not_mem_nil, or_false, ← BitVec.toNat_inj, BitVec.reduceToNat] at h
  unfold decodeRegimm
  split
  case h_5 => rfl
  all_goals omega

theorem decodeCop0_reserved {w : Word} (h0 : fRs w ≠ 0x00) (h4 : fRs w ≠ 0x04)
    (h : fRs w = 0x10 → fFunct w ∉ [0x01#6, 0x02#6, 0x06#6, 0x08#6, 0x10#6, 0x20#6]) :
    decodeCop0 w = .cop0Reserved := by
  rw [decodeCop0_of_not_operation h, if_neg (h0 ·.1), if_neg (h4 ·.1)]

/-- Bit 25 of a word is the top bit of its `rs` field (R141). -/
theorem fRs_bit4 (w : Word) : (fRs w).getLsbD 4 = w.getLsbD 25 := by simp [fRs]

end Sys2Proof

namespace Sys2Proof.Machine

/-! ## What they raise -/

theorem Cpu.cp0Usable_eq (c : Cpu) : c.cp0Usable = !c.unprivileged := by simp [Cpu.cp0Usable, Cpu.unprivileged]

/-- A reserved word traps in both modes alike (R150). -/
theorem State.execute_reserved {s : State} {w : Word} (h : decode w = .reserved) : s.Takes (s.execute w) .ri := by
  rw [State.execute, h]
  exact s.takes_enter .ri

/-- A reserved word of the COP0 space is one of an unusable coprocessor before it is a reserved one (R153, R272). -/
theorem State.execute_cop0Reserved {s : State} {w : Word} (h : decode w = .cop0Reserved) :
    s.Takes (s.execute w) (if s.cpu.unprivileged then .copUnusable 0 else .ri) := by
  rw [State.execute, h]
  dsimp only
  rw [Cpu.cp0Usable_eq]
  cases s.cpu.unprivileged with
  | true => exact s.takes_enter (.copUnusable 0)
  | false => exact s.takes_enter .ri

/-- Settles O5: each value that names no row decodes to its trap. A COP0 word with bit 25 set has an `rs` field beyond
those of MFC0 and MTC0, one with bit 25 clear is no operation of R148. -/
theorem reservedWordsTrap : Obligations.ReservedWordsTrap := by
  refine fun s w => ⟨fun h => State.execute_reserved ?_, fun h => State.execute_cop0Reserved ?_⟩
  · rcases h with hop | hop | hop | hop | ⟨hop, hfunct⟩ | ⟨hop, hrt⟩
    · exact decode_reserved (.inl hop)
    · exact decode_reserved (.inr (.inl hop))
    · exact decode_reserved (.inr (.inr (.inl hop)))
    · exact decode_reserved (.inr (.inr (.inr hop)))
    · rw [decode_special hop, decodeSpecial_reserved hfunct]
    · rw [decode_regimm hop, decodeRegimm_reserved hrt]
  · rcases h with hop | hop | ⟨hop, h0, h4, hbit⟩ | ⟨hop, hbit, hfunct⟩
    · simp [decode, hop]
    · simp [decode, hop]
    · have hrs : fRs w ≠ 0x10 := fun hrs => absurd hbit (by rw [hrs]; decide)
      rw [decode_cop0 hop, decodeCop0_reserved h0 h4 fun h => absurd h hrs]
    · have hrs : ∀ r : Reg, r.getLsbD 4 = false → fRs w ≠ r := by
        rintro r hr rfl
        rw [fRs_bit4, hbit] at hr
        cases hr
      rw [decode_cop0 hop, decodeCop0_reserved (hrs 0x00 rfl) (hrs 0x04 rfl) fun _ => hfunct]

end Sys2Proof.Machine
end

section
/-! PROOFS. The arithmetic, logic, comparison and shift instructions (40_alu.md R170-R195). Each of them ends in
`retireReg` with one value (or, for ADD, SUB and ADDI, in `trapOrWrite`), so its effect is that of
`State.retireReg_result`; what is left to prove is what the value is. -/

namespace Sys2Proof.Machine

/-! ## The operands -/

theorem sext16_toInt (imm : Half) : (sext16 imm).toInt = imm.toInt := BitVec.toInt_signExtend_of_le (by decide)

/-- The unsigned value of a word is its signed value modulo 2^32. -/
theorem toNat_eq_toInt_emod (w : Word) : (w.toNat : Int) = w.toInt % 2 ^ 32 := by
  have hlt := w.isLt
  rw [BitVec.toInt_eq_toNat_bmod, show (2 : Int) ^ 32 = ((2 ^ 32 : Nat) : Int) from rfl, Int.bmod_emod]
  omega

theorem sext16_toNat (imm : Half) : ((sext16 imm).toNat : Int) = imm.toInt % 2 ^ 32 := by
  rw [toNat_eq_toInt_emod, sext16_toInt]

/-- The upper half of a zero-extended immediate is 0 (R143). -/
theorem zext16_getLsbD (imm : Half) {i : Nat} (hi : i < 32) : (zext16 imm).getLsbD i = imm.getLsbD i := by
  simp [zext16, hi]

theorem upper16_toNat (imm : Half) : (upper16 imm).toNat = imm.toNat * 2 ^ 16 := by
  rw [upper16, BitVec.toNat_append, Nat.shiftLeft_eq]
  exact Nat.or_zero _

theorem shiftCount_eq (w : Word) : shiftCount w = w.toNat % 32 := BitVec.extractLsb'_toNat 0 5 w

/-! ## Sums and differences -/

theorem add_sext16_toNat (a : Word) (imm : Half) :
    ((a + sext16 imm).toNat : Int) = (a.toNat + imm.toInt) % 2 ^ 32 := by
  have himm := sext16_toNat imm
  rw [BitVec.toNat_add]
  omega

/-- A difference is what the subtrahend completes to the minuend, modulo 2^32 (R174). -/
theorem sub_toNat_add (a b : Word) : ((a - b).toNat + b.toNat) % 2 ^ 32 = a.toNat := by
  rw [← BitVec.toNat_add, BitVec.sub_add_cancel]

/-- An exact result overflows when it is the signed value of no word (R171). -/
theorem overflows_iff (n : Int) : overflows n = true ↔ ∀ v : Word, v.toInt ≠ n := by
  rw [overflows, decide_eq_true_iff]
  constructor
  · rintro hout v rfl
    have hlt := v.toInt_lt
    have hle := v.le_toInt
    omega
  · intro hnone
    by_contra hin
    exact hnone (BitVec.ofInt 32 n) (BitVec.toInt_ofInt_eq_self (by decide) (by omega) (by omega))

theorem State.trapOrWrite_exact (s : State) (rd : Reg) {n : Int} {v : Word} (h : v.toInt = n) :
    s.trapOrWrite rd n = .next (s.retireReg rd v) := by
  have hfits : ¬ overflows n = true := fun ho => (overflows_iff n).1 ho v h
  rw [State.trapOrWrite, if_neg hfits, ← h, BitVec.ofInt_toInt]

theorem State.trapOrWrite_overflow (s : State) (rd : Reg) {n : Int} (h : ∀ v : Word, v.toInt ≠ n) :
    s.trapOrWrite rd n = .next (s.enter .ov) :=
  if_pos ((overflows_iff n).2 h)

/-! ## Comparisons -/

theorem boolWord_lessSigned (a b : Word) : boolWord (lessSigned a b) = if a.toInt < b.toInt then 1 else 0 := by
  simp [boolWord, lessSigned]

theorem boolWord_lessUnsigned (a b : Word) : boolWord (lessUnsigned a b) = if a.toNat < b.toNat then 1 else 0 := by
  simp [boolWord, lessUnsigned]

/-- The unsigned comparison with a sign-extended immediate (R184). -/
theorem boolWord_lessUnsigned_sext16 (a : Word) (imm : Half) :
    boolWord (lessUnsigned a (sext16 imm)) = if (a.toNat : Int) < imm.toInt % 2 ^ 32 then 1 else 0 := by
  simp only [boolWord_lessUnsigned, ← sext16_toNat, Int.ofNat_lt]

/-! ## Shifts -/

theorem shiftLeft_toNat (a : Word) (n : Nat) : (a <<< n).toNat = a.toNat * 2 ^ n % 2 ^ 32 := by
  rw [BitVec.toNat_shiftLeft, Nat.shiftLeft_eq]

theorem ushiftRight_toNat (a : Word) (n : Nat) : (a >>> n).toNat = a.toNat / 2 ^ n := by
  rw [BitVec.toNat_ushiftRight, Nat.shiftRight_eq_div_pow]

/-- The arithmetic shift rounds down, also below 0 (R191). -/
theorem sshiftRight_toInt (a : Word) (n : Nat) : (a.sshiftRight n).toInt = a.toInt / 2 ^ n := by
  rw [BitVec.toInt_sshiftRight, Int.shiftRight_eq_div_pow, Nat.cast_pow, Nat.cast_ofNat]

/-! ## Instructions that retire with a register result -/

/-- An instruction that retires with `v` has the register result of any value `w` that `v` is. -/
theorem exec_registerResult {i : Instr} {s : State} {r : Reg} {v w : Word}
    (hi : exec i s = .next (s.retireReg r v)) (hv : v = w) :
    ∃ t, exec i s = .next t ∧ s.RegisterResult t r w :=
  ⟨_, hi, hv ▸ s.retireReg_result r v⟩

/-- An instruction that retires with `v` completes with a value of any property `P` that `v` has. -/
theorem exec_registerResult_of {i : Instr} {s : State} {r : Reg} {v : Word} {P : Word → Prop}
    (hi : exec i s = .next (s.retireReg r v)) (hv : P v) :
    ∃ t w, exec i s = .next t ∧ s.RegisterResult t r w ∧ P w :=
  ⟨_, v, hi, s.retireReg_result r v, hv⟩

/-- An instruction that ends in the entry of `e` takes it. -/
theorem exec_takes {i : Instr} {s : State} {e : Exc} (hi : exec i s = .next (s.enter e)) : s.Takes (exec i s) e :=
  hi ▸ s.takes_enter e

/-! ## The obligations -/

/-- Settles O7: an exact result that some word has is written as that word. -/
theorem trappingArithmeticCompletes : Obligations.TrappingArithmeticCompletes := fun s _ _ _ imm _ =>
  ⟨fun h => exec_registerResult (s.trapOrWrite_exact _ h) rfl,
    fun h => exec_registerResult (s.trapOrWrite_exact _ h) rfl,
    fun h => exec_registerResult (s.trapOrWrite_exact _ (sext16_toInt imm ▸ h)) rfl⟩

/-- Settles O8: an exact result that no word has ends in OV. -/
theorem overflowTraps : Obligations.OverflowTraps := fun s _ _ _ imm =>
  ⟨fun h => exec_takes (s.trapOrWrite_overflow _ h), fun h => exec_takes (s.trapOrWrite_overflow _ h),
    fun h => exec_takes (s.trapOrWrite_overflow _ (sext16_toInt imm ▸ h))⟩

/-- Settles O9: the sums and the difference of bit vectors. -/
theorem wrappingArithmeticCompletes : Obligations.WrappingArithmeticCompletes := fun _ _ _ _ _ =>
  ⟨exec_registerResult_of rfl (BitVec.toNat_add _ _), exec_registerResult_of rfl (sub_toNat_add _ _),
    exec_registerResult_of rfl (add_sext16_toNat _ _)⟩

/-- Settles O10: the operations of bit vectors bit by bit; of an immediate first the extension. -/
theorem logicCompletes : Obligations.LogicCompletes := by
  intro s rd rs rt imm
  refine ⟨exec_registerResult_of rfl fun i hi => ?and, exec_registerResult_of rfl fun i hi => ?or,
    exec_registerResult_of rfl fun i hi => ?xor, exec_registerResult_of rfl fun i hi => ?nor,
    exec_registerResult_of rfl fun i hi => ?andi, exec_registerResult_of rfl fun i hi => ?ori,
    exec_registerResult_of rfl fun i hi => ?xori, exec_registerResult_of rfl (upper16_toNat imm)⟩
  case and => exact BitVec.getLsbD_and
  case or => exact BitVec.getLsbD_or
  case xor => exact BitVec.getLsbD_xor
  case nor => rw [BitVec.getLsbD_not, BitVec.getLsbD_or, decide_eq_true hi, Bool.true_and]
  case andi => rw [BitVec.getLsbD_and, zext16_getLsbD imm hi]
  case ori => rw [BitVec.getLsbD_or, zext16_getLsbD imm hi]
  case xori => rw [BitVec.getLsbD_xor, zext16_getLsbD imm hi]

/-- Settles O11: the comparisons of the signed and the unsigned values. -/
theorem comparisonsComplete : Obligations.ComparisonsComplete := fun _ _ _ _ imm =>
  ⟨exec_registerResult rfl (boolWord_lessSigned _ _), exec_registerResult rfl (boolWord_lessUnsigned _ _),
    exec_registerResult rfl (sext16_toInt imm ▸ boolWord_lessSigned _ _),
    exec_registerResult rfl (boolWord_lessUnsigned_sext16 _ _)⟩

/-- Settles O12: the three shifts of a word, by the field `sa` or by the count of `rs`. -/
theorem shiftsComplete : Obligations.ShiftsComplete := fun s _ rs _ _ =>
  have hcount := shiftCount_eq (s.cpu.src rs)
  ⟨exec_registerResult_of rfl (shiftLeft_toNat _ _), exec_registerResult_of rfl (ushiftRight_toNat _ _),
    exec_registerResult_of rfl (sshiftRight_toInt _ _),
    exec_registerResult_of rfl (hcount ▸ shiftLeft_toNat _ _),
    exec_registerResult_of rfl (hcount ▸ ushiftRight_toNat _ _),
    exec_registerResult_of rfl (hcount ▸ sshiftRight_toInt _ _)⟩

end Sys2Proof.Machine
end

section
/-! PROOFS. The multiplications, the divisions and the moves of HI and LO (41_muldiv.md R210-R219). Each of them ends in
`retireHiLo` or `retireReg`, a division without a defined result in `retireFreeHiLo`, so none raises an exception; what
is left to prove is that HI and LO are the product, or the quotient and the remainder. -/

namespace Sys2Proof.Machine

/-! ## Products -/

/-- HI and LO together are the whole product (R219). -/
theorem upperHalf_append_lowerHalf (p : BitVec 64) : (upperHalf p ++ lowerHalf p : BitVec 64) = p :=
  BitVec.extractLsb'_append_extractLsb' (w := 32) (len := 32)

/-- The product of two signed words is the signed value of 64 bits (R211). -/
theorem signedProduct_toInt (a b : Word) : (signedProduct a b).toInt = a.toInt * b.toInt := by
  have hlow : -2 ^ (32 * 2 - 2) ≤ a.toInt * b.toInt := BitVec.le_toInt_mul_toInt
  have hhigh : a.toInt * b.toInt ≤ 2 ^ (32 * 2 - 2) := BitVec.toInt_mul_toInt_le
  exact BitVec.toInt_ofInt_eq_self (by decide) (by omega) (by omega)

/-- The product of two unsigned words is below 2^64 (R212). -/
theorem unsignedProduct_toNat (a b : Word) : (unsignedProduct a b).toNat = a.toNat * b.toNat :=
  (BitVec.toNat_ofNat _ 64).trans (Nat.mod_eq_of_lt BitVec.toNat_mul_toNat_lt)

/-! ## Quotients and remainders -/

/-- The two divisions without a defined result are by 0 and of -2^31 by -1 (R213). -/
theorem divDefined_iff (n d : Word) :
    divDefined n d = true ↔ d ≠ 0 ∧ ¬ (n = 0x80000000#32 ∧ d = 0xFFFFFFFF#32) := by
  simp [divDefined, imp_iff_not_or]

theorem signedRemainder_toInt (n d : Word) : (signedRemainder n d).toInt = n.toInt.tmod d.toInt := by
  rw [signedRemainder, ← BitVec.toInt_srem, BitVec.ofInt_toInt]

/-- Only -2^31 by -1 has a quotient that is the signed value of no word (R213). -/
theorem signedQuotient_toInt {n d : Word} (h : divDefined n d = true) :
    (signedQuotient n d).toInt = n.toInt.tdiv d.toInt := by
  have hfits : n ≠ 0x80000000#32 ∨ d ≠ 0xFFFFFFFF#32 := not_and_or.1 ((divDefined_iff n d).1 h).2
  rw [signedQuotient, ← BitVec.toInt_sdiv_of_ne_or_ne n d hfits, BitVec.ofInt_toInt]

/-- The remainder is what the quotient leaves of the dividend (R219). -/
theorem signedQuotient_mul_add_signedRemainder {n d : Word} (h : divDefined n d = true) :
    n.toInt = (signedQuotient n d).toInt * d.toInt + (signedRemainder n d).toInt := by
  rw [signedQuotient_toInt h, signedRemainder_toInt, Int.tdiv_mul_add_tmod]

theorem signedRemainder_natAbs_lt (n : Word) {d : Word} (hd : d ≠ 0) :
    (signedRemainder n d).toInt.natAbs < d.toInt.natAbs := by
  have hpos : 0 < d.toInt.natAbs := Int.natAbs_pos.2 fun h0 => hd (BitVec.toInt_inj.1 h0)
  rw [signedRemainder_toInt, Int.natAbs_tmod]
  exact Nat.mod_lt _ hpos

/-- A remainder other than 0 has the sign of its dividend (R213). -/
theorem toInt_neg_of_signedRemainder_neg {n d : Word} (h : (signedRemainder n d).toInt < 0) : n.toInt < 0 := by
  rw [signedRemainder_toInt] at h
  exact lt_of_not_ge fun hn => not_le_of_gt h (Int.tmod_nonneg _ hn)

/-- The same for a positive remainder, since a negated dividend negates the remainder. -/
theorem toInt_pos_of_signedRemainder_pos {n d : Word} (h : 0 < (signedRemainder n d).toInt) : 0 < n.toInt := by
  rw [signedRemainder_toInt] at h
  by_contra hn
  have hneg : 0 ≤ (-n.toInt).tmod d.toInt := Int.tmod_nonneg _ (by omega)
  rw [Int.neg_tmod] at hneg
  omega

theorem unsignedQuotient_toNat (n d : Word) : (unsignedQuotient n d).toNat = n.toNat / d.toNat := by
  rw [unsignedQuotient, ← BitVec.udiv_def, BitVec.toNat_udiv]

theorem unsignedRemainder_toNat (n d : Word) : (unsignedRemainder n d).toNat = n.toNat % d.toNat := by
  rw [unsignedRemainder, ← BitVec.umod_def, BitVec.toNat_umod]

theorem unsignedQuotient_mul_add_unsignedRemainder (n d : Word) :
    n.toNat = (unsignedQuotient n d).toNat * d.toNat + (unsignedRemainder n d).toNat := by
  rw [unsignedQuotient_toNat, unsignedRemainder_toNat, Nat.div_add_mod']

theorem unsignedRemainder_toNat_lt (n : Word) {d : Word} (hd : d ≠ 0) :
    (unsignedRemainder n d).toNat < d.toNat := by
  have hpos : 0 < d.toNat := Nat.pos_of_ne_zero fun h0 => hd (BitVec.eq_of_toNat_eq h0)
  rw [unsignedRemainder_toNat]
  exact Nat.mod_lt _ hpos

/-! ## How a division ends -/

section
variable {s : State} {rs rt : Reg}

theorem exec_div_defined (h : divDefined (s.cpu.src rs) (s.cpu.src rt) = true) :
    exec (.div rs rt) s = .next (s.retireHiLo (signedRemainder (s.cpu.src rs) (s.cpu.src rt))
      (signedQuotient (s.cpu.src rs) (s.cpu.src rt))) :=
  congrArg Host.Outcome.next (if_pos h)

theorem exec_div_undefined (h : ¬ divDefined (s.cpu.src rs) (s.cpu.src rt) = true) :
    exec (.div rs rt) s = .next s.retireFreeHiLo :=
  congrArg Host.Outcome.next (if_neg h)

theorem exec_divu_nonzero (h : s.cpu.src rt ≠ 0) :
    exec (.divu rs rt) s = .next (s.retireHiLo (unsignedRemainder (s.cpu.src rs) (s.cpu.src rt))
      (unsignedQuotient (s.cpu.src rs) (s.cpu.src rt))) :=
  congrArg Host.Outcome.next (if_neg h)

theorem exec_divu_zero (h : s.cpu.src rt = 0) : exec (.divu rs rt) s = .next s.retireFreeHiLo :=
  congrArg Host.Outcome.next (if_pos h)

end

/-! ## Instructions that retire with HI and LO -/

/-- An instruction that retires with `h` and `l` completes with values of any property `P` that they have. -/
theorem exec_hiLoResult_of {i : Instr} {s : State} {h l : Word} {P : Word → Word → Prop}
    (hi : exec i s = .next (s.retireHiLo h l)) (hP : P h l) :
    ∃ t hi lo, exec i s = .next t ∧ s.HiLoResult t hi lo ∧ P hi lo :=
  ⟨_, h, l, hi, s.retireHiLo_result h l, hP⟩

/-- Drawing free values is no change of the machine, so whatever HI and LO receive, nothing else changes (D15). -/
theorem State.retireFreeHiLo_result (s : State) :
    s.HiLoResult s.retireFreeHiLo (Config.freeWord s.draws) (Config.freeWord (s.draws + 1)) :=
  s.retireHiLo_result _ _

theorem exec_freeHiLoResult {i : Instr} {s : State} (hi : exec i s = .next s.retireFreeHiLo) :
    ∃ t hi lo, exec i s = .next t ∧ s.HiLoResult t hi lo :=
  ⟨_, _, _, hi, s.retireFreeHiLo_result⟩

/-! ## The obligations -/

/-- Settles O13: the exact product fits the 64 bits of HI and LO. -/
theorem productsComplete : Obligations.ProductsComplete := by
  refine fun s rs rt => ⟨exec_hiLoResult_of rfl ?mult, exec_hiLoResult_of rfl ?multu⟩
  case mult => rw [upperHalf_append_lowerHalf, signedProduct_toInt]
  case multu => rw [upperHalf_append_lowerHalf, unsignedProduct_toNat]

/-- Settles O14: quotient and remainder make up the dividend, and the remainder is smaller than the divisor and, for
DIV, of the dividend's sign. -/
theorem quotientsComplete : Obligations.QuotientsComplete := by
  refine fun s rs rt hd => ⟨fun hover => ?div, ?divu⟩
  case div =>
    have hdef := (divDefined_iff _ _).2 ⟨hd, hover⟩
    exact exec_hiLoResult_of (exec_div_defined hdef) ⟨signedQuotient_mul_add_signedRemainder hdef,
      signedRemainder_natAbs_lt _ hd, toInt_pos_of_signedRemainder_pos, toInt_neg_of_signedRemainder_neg⟩
  case divu =>
    exact exec_hiLoResult_of (exec_divu_nonzero hd)
      ⟨unsignedQuotient_mul_add_unsignedRemainder _ _, unsignedRemainder_toNat_lt _ hd⟩

/-- Settles O15: DIV by 0 or of -2^31 by -1, and DIVU by 0, retire with free values of HI and LO. -/
theorem undefinedDivisionCompletes : Obligations.UndefinedDivisionCompletes := by
  refine fun s rs rt => ⟨fun hundef => ?div, fun hzero => exec_freeHiLoResult (exec_divu_zero hzero)⟩
  case div =>
    refine exec_freeHiLoResult (exec_div_undefined fun hdef => ?_)
    obtain ⟨hnonzero, hfits⟩ := (divDefined_iff _ _).1 hdef
    exact hundef.elim hnonzero hfits

/-- Settles O16: MFHI and MFLO write a register; MTHI and MTLO write one of HI and LO and keep the other. -/
theorem hiLoMovesComplete : Obligations.HiLoMovesComplete := fun s _ =>
  ⟨exec_registerResult rfl rfl, exec_registerResult rfl rfl, ⟨_, rfl, s.retireHiLo_result _ _⟩,
    ⟨_, rfl, s.retireHiLo_result _ _⟩⟩

end Sys2Proof.Machine
end

section
/-! PROOFS. Loads and stores that reach memory (42_loadstore.md R223-R232, R235, R236; O18-O21). An access of memory
answers the bytes of `Memory.readWidth` or stores those of `Memory.writeWidth`, so what is left to prove is what these
bytes are. The unaligned instructions are proved lane by lane of the aligned word: what a lane of each shift, mask and
memory word is, and that a translation keeps the low bits of the address, on which the shift depends. -/

namespace Sys2Proof.Machine

/-! ## The lanes of a word -/

theorem getLsbD_laneOf (w : Word) (j : Nat) {i : Nat} (hi : i < 8) :
    (laneOf w j).getLsbD i = w.getLsbD (8 * j + i) := by
  simp [laneOf, hi]

theorem laneOf_or (v w : Word) (j : Nat) : laneOf (v ||| w) j = laneOf v j ||| laneOf w j := BitVec.extractLsb'_or

/-- A left shift by `k` bytes moves each lane up by `k` and clears the lanes below. -/
theorem laneOf_shiftLeft (w : Word) (k : Nat) {j : Nat} (hj : j < 4) :
    laneOf (w <<< (8 * k)) j = if k ≤ j then laneOf w (j - k) else 0 := by
  refine BitVec.eq_of_getLsbD_eq fun i hi => ?_
  rw [getLsbD_laneOf _ _ hi, BitVec.getLsbD_shiftLeft, decide_eq_true (show 8 * j + i < 32 by omega), Bool.true_and]
  split
  case isTrue hk =>
    rw [getLsbD_laneOf _ _ hi, decide_eq_false (by omega), show 8 * j + i - 8 * k = 8 * (j - k) + i by omega]
    rfl
  case isFalse hk =>
    rw [decide_eq_true (by omega)]
    simp

/-- A right shift by `m` bytes moves each lane down by `m`; there are no bits above lane 3. -/
theorem laneOf_ushiftRight (w : Word) (m j : Nat) : laneOf (w >>> (8 * m)) j = laneOf w (j + m) := by
  refine BitVec.eq_of_getLsbD_eq fun i hi => ?_
  rw [getLsbD_laneOf _ _ hi, getLsbD_laneOf _ _ hi, BitVec.getLsbD_ushiftRight]
  congr 1
  omega

theorem laneOf_above (w : Word) {j : Nat} (hj : 4 ≤ j) : laneOf w j = 0 := by
  refine BitVec.eq_of_getLsbD_eq fun i hi => ?_
  rw [getLsbD_laneOf _ _ hi, BitVec.getLsbD_of_ge _ _ (by omega)]
  simp

/-- The mask of LWL keeps the `k` low lanes (R228). -/
theorem laneOf_and_lowMask (v : Word) (k : Nat) {j : Nat} (hj : j < 4) :
    laneOf (v &&& BitVec.ofNat 32 (2 ^ (8 * k) - 1)) j = if k ≤ j then 0 else laneOf v j := by
  refine BitVec.eq_of_getLsbD_eq fun i hi => ?_
  rw [getLsbD_laneOf _ _ hi, BitVec.getLsbD_and, BitVec.getLsbD_ofNat, Nat.testBit_two_pow_sub_one,
    decide_eq_true (show 8 * j + i < 32 by omega), Bool.true_and]
  split
  case isTrue hk =>
    rw [decide_eq_false (by omega)]
    simp
  case isFalse hk => rw [decide_eq_true (by omega), Bool.and_true, getLsbD_laneOf _ _ hi]

/-- The mask of LWR keeps the `m` high lanes (R229). -/
theorem laneOf_and_highMask (v : Word) (m : Nat) {j : Nat} (hj : j < 4) :
    laneOf (v &&& ~~~(0xFFFFFFFF#32 >>> (8 * m))) j = if j + m < 4 then 0 else laneOf v j := by
  refine BitVec.eq_of_getLsbD_eq fun i hi => ?_
  rw [getLsbD_laneOf _ _ hi, BitVec.getLsbD_and, BitVec.getLsbD_not, BitVec.getLsbD_ushiftRight,
    show 0xFFFFFFFF#32 = BitVec.allOnes 32 from rfl, BitVec.getLsbD_allOnes,
    decide_eq_true (show 8 * j + i < 32 by omega), Bool.true_and]
  split
  case isTrue hm =>
    rw [decide_eq_true (by omega)]
    simp
  case isFalse hm => rw [decide_eq_false (by omega), Bool.not_false, Bool.and_true, getLsbD_laneOf _ _ hi]

/-- LWL: the word's lanes from lane `k` on, below them the old value's (R228). -/
theorem laneOf_lwlMerge (k : Nat) (w old : Word) {j : Nat} (hj : j < 4) :
    laneOf (lwlMerge k w old) j = if k ≤ j then laneOf w (j - k) else laneOf old j := by
  rw [lwlMerge, laneOf_or, laneOf_shiftLeft w k hj, laneOf_and_lowMask old k hj]
  split <;> simp

/-- LWR: the word's lanes from lane `m` on in the low lanes, above them the old value's (R229). -/
theorem laneOf_lwrMerge (m : Nat) (w old : Word) {j : Nat} (hj : j < 4) :
    laneOf (lwrMerge m w old) j = if j + m < 4 then laneOf w (j + m) else laneOf old j := by
  rw [lwrMerge, laneOf_or, laneOf_ushiftRight, laneOf_and_highMask old m hj]
  split
  case isTrue hm => simp
  case isFalse hm => simp [laneOf_above w (Nat.le_of_not_lt hm)]

/-! ## Memory words and halfwords -/

theorem laneOf_append_bytes (b3 b2 b1 b0 : Byte) :
    laneOf (b3 ++ b2 ++ b1 ++ b0) 0 = b0 ∧ laneOf (b3 ++ b2 ++ b1 ++ b0) 1 = b1 ∧
    laneOf (b3 ++ b2 ++ b1 ++ b0) 2 = b2 ∧ laneOf (b3 ++ b2 ++ b1 ++ b0) 3 = b3 := by
  have habove : ∀ j, laneOf (b3 ++ b2 ++ b1 ++ b0) (j + 1) = (b3 ++ b2 ++ b1).extractLsb' (8 * j) 8 := fun j =>
    BitVec.extractLsb'_append_eq_of_le (by omega)
  refine ⟨BitVec.extractLsb'_append_eq_right, ?_, ?_, ?_⟩
  · exact (habove 0).trans BitVec.extractLsb'_append_eq_right
  · rw [habove, BitVec.extractLsb'_append_eq_of_le (by decide)]
    exact BitVec.extractLsb'_append_eq_right
  · rw [habove, BitVec.extractLsb'_append_eq_of_le (by decide)]
    exact BitVec.extractLsb'_append_eq_left

/-- Lane `j` of a word in memory is the byte at the lane's offset (R100). -/
theorem laneOf_wordOfBytes (big : Bool) (f : Nat → Byte) {j : Nat} (hj : j < 4) :
    laneOf (wordOfBytes big (f 0) (f 1) (f 2) (f 3)) j = f (laneOffset big j) := by
  obtain ⟨hbig0, hbig1, hbig2, hbig3⟩ := laneOf_append_bytes (f 0) (f 1) (f 2) (f 3)
  obtain ⟨hlittle0, hlittle1, hlittle2, hlittle3⟩ := laneOf_append_bytes (f 3) (f 2) (f 1) (f 0)
  have h4 : j = 0 ∨ j = 1 ∨ j = 2 ∨ j = 3 := by omega
  cases big <;> rcases h4 with rfl | rfl | rfl | rfl <;> assumption

theorem Memory.laneOf_readWord (big : Bool) (m : Memory) (a : Nat) {j : Nat} (hj : j < 4) :
    laneOf (m.readWord big a) j = m.read (a + laneOffset big j) :=
  laneOf_wordOfBytes big (fun k => m.read (a + k)) hj

/-- Writing selected lanes of a word changes these lanes only (R104). -/
theorem Memory.laneOf_readWord_writeLanes (big : Bool) (m : Memory) (a : Nat) (v : Word) (sel : Nat → Bool) {j : Nat}
    (hj : j < 4) :
    laneOf ((m.writeLanes big a v sel).readWord big a) j =
      if sel j then laneOf v j else laneOf (m.readWord big a) j := by
  rw [Memory.laneOf_readWord _ _ _ hj, Memory.laneOf_readWord _ _ _ hj, Memory.read_writeLanes big m a v sel j hj]

/-- The lanes of SWL hold the register's high lanes (R235). -/
theorem Memory.laneOf_readWord_swl (big : Bool) (m : Memory) (a k : Nat) (v : Word) {j : Nat} (hj : j < 4) :
    laneOf ((m.writeLanes big a (swlValue k v) (swlLane k)).readWord big a) j =
      if j + k < 4 then laneOf v (j + k) else laneOf (m.readWord big a) j := by
  rw [Memory.laneOf_readWord_writeLanes _ _ _ _ _ hj, swlValue, laneOf_ushiftRight]
  simp [swlLane, Nat.lt_succ_iff]

/-- The lanes of SWR hold the register's low lanes (R236). -/
theorem Memory.laneOf_readWord_swr (big : Bool) (m : Memory) (a n : Nat) (v : Word) {j : Nat} (hj : j < 4) :
    laneOf ((m.writeLanes big a (swrValue n v) (swrLane n)).readWord big a) j =
      if n ≤ j then laneOf v (j - n) else laneOf (m.readWord big a) j := by
  rw [Memory.laneOf_readWord_writeLanes _ _ _ _ _ hj, swrValue, laneOf_shiftLeft v n hj]
  by_cases hn : n ≤ j <;> simp [swrLane, hn]

/-- Reading the halfword just written (R100). -/
theorem Memory.readHalf_writeHalf (big : Bool) (m : Memory) (a : Nat) (v : Half) :
    (m.writeHalf big a v).readHalf big a = v := by
  have hsplit : v.extractLsb' 8 8 ++ v.extractLsb' 0 8 = v := BitVec.extractLsb'_append_extractLsb' (w := 8) (len := 8)
  cases big <;> simpa [Memory.writeHalf, Memory.readHalf, Memory.read_write] using hsplit

/-- What the byte and halfword loads take from the zero-extended value is what memory holds (R223-R226). -/
theorem Memory.readWidth_byte_low (big : Bool) (m : Memory) (a : Nat) :
    (m.readWidth big .byte a).extractLsb' 0 8 = m.read a := by
  rw [Memory.readWidth, BitVec.extractLsb'_setWidth_of_le (by decide), BitVec.extractLsb'_eq_self]

theorem Memory.readWidth_half_low (big : Bool) (m : Memory) (a : Nat) :
    (m.readWidth big .half a).extractLsb' 0 16 = m.readHalf big a := by
  rw [Memory.readWidth, BitVec.extractLsb'_setWidth_of_le (by decide), BitVec.extractLsb'_eq_self]

/-! ## The low bits of a translated address -/

/-- A translation keeps the offset in the page (R110). -/
theorem translateAddr_offsetOf {cfg : Config} {c : Cpu} {k : Access} {w : Width} {va pa : Word}
    (h : translateAddr cfg c k w va = .ok pa) : offsetOf pa = offsetOf va := by
  unfold translateAddr at h
  split_ifs at h
  case pos =>
    cases hp : c.tlbProbe cfg (vpnOf va) with
    | none => rw [translateMapped_of_none hp] at h; cases h
    | some i =>
      rw [translateMapped_of_some hp] at h
      split_ifs at h
      cases h
      exact BitVec.extractLsb'_append_eq_right
  case neg => cases h; rfl

section
variable {s : State} {k : Access} {w : Width} {ea : Word} {pa : Nat}

/-- The byte in the aligned word is the same before and after the translation. -/
theorem State.Reaches.mod_four (ht : s.Reaches k w ea pa) : (ea.extractLsb' 0 2).toNat = pa % 4 := by
  obtain ⟨p, hp, rfl⟩ := ht
  have hoff : (offsetOf p).toNat = (offsetOf ea).toNat := congrArg _ (translateAddr_offsetOf hp)
  simp only [offsetOf, BitVec.extractLsb'_toNat, Nat.shiftRight_zero] at hoff ⊢
  omega

theorem State.Reaches.leftShift_eq (ht : s.Reaches k w ea pa) (big : Bool) :
    leftShift big ea = if big then pa % 4 else 3 - pa % 4 := by
  rw [leftShift, ht.mod_four]

theorem State.Reaches.rightShift_eq (ht : s.Reaches k w ea pa) (big : Bool) :
    rightShift big ea = if big then 3 - pa % 4 else pa % 4 := by
  rw [rightShift, ht.mod_four]

/-! ## Instructions that access memory -/

/-- A load of memory writes the extended value of the bytes there (R96). -/
theorem exec_load {i : Instr} {rt : Reg} (ext : Word → Word) (hi : exec i s = s.load w ea rt ext)
    (ht : s.Reaches .load w ea pa) (hr : s.Readable pa) :
    exec i s = .next (s.retireLoad rt (ext (s.mem.readWidth s.cfg.bigEndian w pa))) := by
  rw [hi, State.load, s.memLoad_readable w ea pa ht hr, Res.map_ok, State.finish_ok]

/-- An unaligned load writes the merge of the aligned word into the register's own value (R228, R229). -/
theorem exec_loadAround {i : Instr} {rt : Reg} {merge : Word → Word → Word} (hi : exec i s = s.loadAround ea rt merge)
    (ht : s.Reaches .load .byte ea pa) (hr : s.Readable (alignedAddr pa)) :
    exec i s =
      .next (s.retireLoad rt (merge (s.mem.readWord s.cfg.bigEndian (alignedAddr pa)) (s.cpu.reg rt))) := by
  rw [hi, State.loadAround, s.memLoadAround_readable ea pa ht hr, Res.map_ok, State.finish_ok]

/-- What an instruction does that retires with a memory that differs in `n` bytes from `a` on only. -/
theorem State.retire_with_mem_result (s : State) (m : Memory) {a n : Nat}
    (hm : ∀ b, b < a ∨ a + n ≤ b → m.read b = s.mem.read b) : s.StoreResult { s.retire with mem := m } a n :=
  ⟨fun _ => rfl, ⟨⟨rfl, rfl, rfl⟩, rfl⟩, ⟨rfl, rfl⟩, by simp [Cpu.SameControl, Cpu.SamePrivate, Cpu.SameException], hm,
    by simp [State.SameMachine]⟩

/-- A store to memory writes its bytes and retires (R96). -/
theorem exec_store {i : Instr} {v : Word} (hi : exec i s = s.finish (s.memStore w ea v))
    (ht : s.Reaches .store w ea pa) (hr : s.Writable pa) :
    exec i s = .next { s.retire with mem := s.mem.writeWidth s.cfg.bigEndian w pa v } := by
  rw [hi, s.memStore_writable w ea v pa ht hr, State.finish_ok]

/-- A store changes the bytes of its width only (R104). -/
theorem State.store_result (s : State) (w : Width) (a : Nat) (v : Word) :
    s.StoreResult { s.retire with mem := s.mem.writeWidth s.cfg.bigEndian w a v } a w.bytes :=
  s.retire_with_mem_result _ (Memory.read_writeWidth_outside _ _ _ _ _)

/-- An unaligned store to memory writes its lanes of the aligned word and retires (R235, R236). -/
theorem exec_storeAround {i : Instr} {v : Word} {lanes : Nat → Bool}
    (hi : exec i s = s.finish (s.memStoreAround ea v lanes)) (ht : s.Reaches .store .byte ea pa)
    (hr : s.Writable (alignedAddr pa)) :
    exec i s = .next { s.retire with mem := s.mem.writeLanes s.cfg.bigEndian (alignedAddr pa) v lanes } := by
  rw [hi, s.memStoreAround_writable ea v lanes pa ht hr, State.finish_ok]

/-- An unaligned store changes bytes of the aligned word only (R104). -/
theorem State.storeAround_result (s : State) (a : Nat) (v : Word) (lanes : Nat → Bool) :
    s.StoreResult { s.retire with mem := s.mem.writeLanes s.cfg.bigEndian a v lanes } a 4 :=
  s.retire_with_mem_result _ (Memory.read_writeLanes_outside _ _ _ _ _)

end

/-! ## The obligations -/

/-- Settles O18: memory answers the bytes zero-extended, which the instructions cut to their width and extend. -/
theorem loadsComplete : Obligations.LoadsComplete := by
  intro s rt base off pa hr
  rw [← Memory.readWidth_byte_low s.cfg.bigEndian, ← Memory.readWidth_half_low]
  refine ⟨fun ht => ⟨?lb, ?lbu⟩, fun ht => ⟨?lh, ?lhu⟩, fun ht => ?lw⟩
  case lb => exact ⟨_, exec_load (fun v => (v.extractLsb' 0 8).signExtend 32) rfl ht hr, s.retireLoad_result rt _⟩
  case lbu => exact ⟨_, exec_load (fun v => (v.extractLsb' 0 8).setWidth 32) rfl ht hr, s.retireLoad_result rt _⟩
  case lh => exact ⟨_, exec_load (fun v => (v.extractLsb' 0 16).signExtend 32) rfl ht hr, s.retireLoad_result rt _⟩
  case lhu => exact ⟨_, exec_load (fun v => (v.extractLsb' 0 16).setWidth 32) rfl ht hr, s.retireLoad_result rt _⟩
  case lw => exact ⟨_, exec_load (fun v => v) rfl ht hr, s.retireLoad_result rt _⟩

/-- Settles O19: the lanes of the two merges, with the shift of the translated address. -/
theorem unalignedLoadsComplete : Obligations.UnalignedLoadsComplete := by
  refine fun s rt base off pa ht hr =>
    ⟨⟨_, _, exec_loadAround rfl ht hr, s.retireLoad_result rt _, fun j hj => ?lwl⟩,
      ⟨_, _, exec_loadAround rfl ht hr, s.retireLoad_result rt _, fun j hj => ?lwr⟩⟩
  case lwl => exact ht.leftShift_eq s.cfg.bigEndian ▸ laneOf_lwlMerge _ _ _ hj
  case lwr => exact ht.rightShift_eq s.cfg.bigEndian ▸ laneOf_lwrMerge _ _ _ hj

/-- Settles O20: reading what was just written; nothing outside its bytes changed. -/
theorem storesComplete : Obligations.StoresComplete := fun s rt _ _ pa hr =>
  ⟨fun ht => ⟨_, exec_store rfl ht hr, s.store_result .byte pa (s.cpu.src rt), Memory.read_write_self _ _ _⟩,
    fun ht => ⟨_, exec_store rfl ht hr, s.store_result .half pa (s.cpu.src rt), Memory.readHalf_writeHalf _ _ _ _⟩,
    fun ht => ⟨_, exec_store rfl ht hr, s.store_result .word pa (s.cpu.src rt), Memory.readWord_writeWord _ _ _ _⟩⟩

/-- Settles O21: the lanes of the two stores, with the shift of the translated address. -/
theorem unalignedStoresComplete : Obligations.UnalignedStoresComplete := by
  refine fun s rt base off pa ht hr =>
    ⟨⟨_, exec_storeAround rfl ht hr, s.storeAround_result _ _ _, fun j hj => ?swl⟩,
      ⟨_, exec_storeAround rfl ht hr, s.storeAround_result _ _ _, fun j hj => ?swr⟩⟩
  case swl => exact ht.leftShift_eq s.cfg.bigEndian ▸ Memory.laneOf_readWord_swl _ _ _ _ _ hj
  case swr => exact ht.rightShift_eq s.cfg.bigEndian ▸ Memory.laneOf_readWord_swr _ _ _ _ _ hj

end Sys2Proof.Machine
end

section
/-! PROOFS. The jumps and branches outside a delay slot (43_branch_jump.md R240-R253). Each of them ends in
`retireBranch` or, when it links, in `retireLink`, so its effect is that of `State.retireBranch_result` or
`State.retireLink_result`; what is left to prove is what the target is and when a branch is taken. -/

namespace Sys2Proof.Machine

/-! ## Targets and conditions -/

/-- The three parts of a jump's target do not overlap, so put side by side they are the disjunction of the masked
address and the shifted field (R241): bit `i` is one of the two zeros, of the field or of the region. -/
theorem jumpTarget_eq (pc : Word) (target : BitVec 26) :
    jumpTarget pc target = (pc + 4) &&& 0xF0000000#32 ||| (target.setWidth 32 <<< 2) := by
  unfold jumpTarget
  generalize pc + 4 = slot
  have hmask : 0xF0000000#32 = BitVec.allOnes 32 <<< 28 := rfl
  refine BitVec.eq_of_getLsbD_eq fun i hi => ?_
  simp only [hmask, BitVec.getLsbD_append, BitVec.getLsbD_or, BitVec.getLsbD_and, BitVec.getLsbD_shiftLeft,
    BitVec.getLsbD_allOnes, BitVec.getLsbD_setWidth, BitVec.getLsbD_extractLsb']
  by_cases hlow : i < 2
  · simp [hlow, show i < 28 by omega]
  by_cases hfield : i - 2 < 26
  · simp [hlow, hfield, hi, show i < 28 by omega, show i - 2 < 32 by omega]
  · have htop : target.getLsbD (i - 2) = false := BitVec.getLsbD_of_ge target (i - 2) (by omega)
    have hbit : 28 + (i - 2 - 26) = i := by omega
    simp [hlow, hfield, hi, htop, hbit, show ¬ i < 28 by omega, show i - 28 < 32 by omega,
      show i - 2 - 26 < 4 by omega]

/-- The target of a branch is `off` words away from the delay slot (R241). -/
theorem branchTarget_eq (pc : Word) (off : Half) : branchTarget pc off = pc + 4 + 4 * off.signExtend 32 := by
  rw [branchTarget, sext16, BitVec.shiftLeft_eq_mul_twoPow, BitVec.mul_comm]
  rfl

/-- The sign bit that BLTZ and BLTZAL test (R250). -/
theorem getLsbD_31_iff (w : Word) : w.getLsbD 31 = true ↔ w.toInt < 0 := by
  rw [← BitVec.msb_eq_getLsbD_last w, BitVec.msb_eq_toInt, decide_eq_true_iff]

/-- The sign bit that BGEZ and BGEZAL test (R251). -/
theorem not_getLsbD_31_iff (w : Word) : (!w.getLsbD 31) = true ↔ 0 ≤ w.toInt := by
  rw [Bool.not_eq_true', ← Bool.not_eq_true, getLsbD_31_iff, Int.not_lt]

/-- Where a branch goes, with its condition as a proposition and its target as the sum of R241. -/
theorem branchTarget_if {taken : Bool} {P : Prop} [Decidable P] (h : taken = true ↔ P) (pc : Word) (off : Half) :
    (if taken then some (branchTarget pc off) else none) = if P then some (pc + 4 + 4 * off.signExtend 32) else none :=
  branchTarget_eq pc off ▸ if_congr h rfl rfl

/-! ## Instructions that retire with a branch -/

section
variable {i : Instr} {s : State}

theorem State.notInDelay_outside (hd : s.cpu.inDelay = false) (o : Out) : s.notInDelay o = o := by
  rw [State.notInDelay, hd, if_neg Bool.false_ne_true]

/-- A jump to `t` has the branch result of any target `u` that `t` is. -/
theorem exec_jumpResult {t u : Option Word} (hd : s.cpu.inDelay = false)
    (hi : exec i s = s.notInDelay (.next (s.retireBranch t))) (ht : t = u) :
    ∃ s', exec i s = .next s' ∧ s.BranchResult s' u none :=
  ⟨_, hi.trans (State.notInDelay_outside hd _), ht ▸ s.retireBranch_result t⟩

/-- A jump to `t` that links in `r` has the branch result of any target `u` that `t` is. -/
theorem exec_linkResult {r : Reg} {t u : Option Word} (hd : s.cpu.inDelay = false)
    (hi : exec i s = s.notInDelay (.next (s.retireLink r t))) (ht : t = u) :
    ∃ s', exec i s = .next s' ∧ s.BranchResult s' u (some (r, s.cpu.pc + 8)) :=
  ⟨_, hi.trans (State.notInDelay_outside hd _), ht ▸ s.retireLink_result r t⟩

/-- A conditional branch on `taken` completes as one on any condition `P` that `taken` decides. -/
theorem exec_branchIf_result {taken : Bool} {off : Half} {P : Prop} [Decidable P] (hd : s.cpu.inDelay = false)
    (hi : exec i s = s.branchIf taken off) (hP : taken = true ↔ P) :
    ∃ s', exec i s = .next s' ∧
      s.BranchResult s' (if P then some (s.cpu.pc + 4 + 4 * off.signExtend 32) else none) none :=
  exec_jumpResult hd hi (branchTarget_if hP _ off)

theorem State.branchLinkIf_restartable {rs : Reg} (hrs : rs ≠ 31) (taken : Bool) (off : Half) :
    s.branchLinkIf rs taken off =
      s.notInDelay (.next (s.retireLink 31 (if taken then some (branchTarget s.cpu.pc off) else none))) := by
  rw [State.branchLinkIf, if_neg hrs]

/-- A conditional branch that links completes as one on any condition `P` that `taken` decides, with its link in both
cases (R252). -/
theorem exec_branchLinkIf_result {rs : Reg} {taken : Bool} {off : Half} {P : Prop} [Decidable P]
    (hd : s.cpu.inDelay = false) (hrs : rs ≠ 31) (hi : exec i s = s.branchLinkIf rs taken off)
    (hP : taken = true ↔ P) :
    ∃ s', exec i s = .next s' ∧
      s.BranchResult s' (if P then some (s.cpu.pc + 4 + 4 * off.signExtend 32) else none)
        (some (31, s.cpu.pc + 8)) :=
  exec_linkResult hd (hi.trans (State.branchLinkIf_restartable hrs taken off)) (branchTarget_if hP _ off)

theorem exec_jalr_restartable {rd rs : Reg} (h : rs ≠ rd) :
    exec (.jalr rd rs) s = s.notInDelay (.next (s.retireLink rd (some (s.cpu.src rs)))) :=
  congrArg s.notInDelay (if_neg h)

end

/-! ## The obligations -/

/-- Settles O33: the four jumps retire with the target of R241 or of `rs`, JALR because its registers differ. -/
theorem jumpsComplete : Obligations.JumpsComplete := by
  rintro s target rd rs _ hd rfl
  have htarget := congrArg some (jumpTarget_eq s.cpu.pc target)
  exact ⟨exec_jumpResult hd rfl htarget, exec_linkResult hd rfl htarget, exec_jumpResult hd rfl rfl,
    fun h => exec_linkResult hd (exec_jalr_restartable h) rfl⟩

/-- Settles O34: each branch by what its comparison decides; BNE's condition is negated. -/
theorem branchesComplete : Obligations.BranchesComplete := by
  rintro s rs rt off _ hd rfl
  refine ⟨?beq, ?bne, ?blez, ?bgtz, ?bltz, ?bgez⟩
  case beq => exact exec_branchIf_result hd rfl beq_iff_eq
  case bne =>
    rw [← ite_not]
    exact exec_branchIf_result hd rfl bne_iff_ne
  case blez => exact exec_branchIf_result hd rfl decide_eq_true_iff
  case bgtz => exact exec_branchIf_result hd rfl decide_eq_true_iff
  case bltz => exact exec_branchIf_result hd rfl (getLsbD_31_iff _)
  case bgez => exact exec_branchIf_result hd rfl (not_getLsbD_31_iff _)

/-- Settles O35: the link is written in both cases, as `retireLink` takes the target as an option. -/
theorem linkingBranchesComplete : Obligations.LinkingBranchesComplete := by
  rintro s rs off _ hd hrs rfl
  exact ⟨exec_branchLinkIf_result hd hrs rfl (getLsbD_31_iff _),
    exec_branchLinkIf_result hd hrs rfl (not_getLsbD_31_iff _)⟩

end Sys2Proof.Machine
end

section
/-! PROOFS. The system instructions and the reads of CP0 (44_system_cp0.md R261-R263, R265-R267, R269, R270): SYSCALL
and BREAK enter their exception in either mode (O37); where CP0 is usable MFC0 retires as a load does, with the value
that `State.cp0Read` answers (O39), and TLBR, TLBWI, TLBWR, RFE and WAIT update the current processor and retire (O41,
O43). -/

namespace Sys2Proof.Machine

/-! ## Status and Cause as read -/

/-- Status reads as stored where its unnamed bits are 0: only an unnamed bit reads a free value (R37). -/
theorem State.statusRead_of_named {s : State} (h : s.cpu.status &&& ~~~statusNamed = 0#32) :
    s.statusRead.1 = s.cpu.status := by
  have hunnamed : s.cpu.status &&& statusUnnamed = 0 := by
    have hsub : statusUnnamed = ~~~statusNamed &&& statusUnnamed := by decide
    rw [hsub, ← BitVec.and_assoc, h]
    exact BitVec.zero_and
  have hnamed : s.cpu.status &&& statusNamed = s.cpu.status := by
    have hall : statusNamed ||| ~~~statusNamed = BitVec.allOnes 32 := by decide
    rw [← BitVec.or_zero (x := s.cpu.status &&& statusNamed), ← h, ← BitVec.and_or_distrib_left, hall,
      BitVec.and_allOnes]
  rw [State.statusRead, if_pos hunnamed, hnamed]

/-- The live IP field lies in bits 15:8 (R38). -/
theorem ipField_within (ip : BitVec 8) : (ip.setWidth 32 <<< 8 : Word) &&& 0xFF00#32 = ip.setWidth 32 <<< 8 := by
  revert ip; decide

/-- Outside the IP field Cause reads its stored bits (R38, D6). -/
theorem State.causeRead_and {s : State} {m : Word} (hm : 0xFF00#32 &&& m = 0#32) :
    s.causeRead &&& m = s.cpu.cause &&& (causeStored &&& m) := by
  rw [State.causeRead, BitVec.and_or_distrib_right, ← ipField_within, BitVec.and_assoc _ 0xFF00#32 m, hm,
    BitVec.and_zero, BitVec.or_zero, BitVec.and_assoc]

/-- In the IP field Cause reads the pending lines (R39). -/
theorem State.causeRead_ip (s : State) {l : Nat} (hl : l < 8) :
    s.causeRead.getLsbD (8 + l) = s.linePending s.cpu l := by
  have hstored : causeStored.getLsbD (8 + l) = false := by revert l; decide
  have hword : 8 + l < 32 := by omega
  rw [State.causeRead, State.causeIP, BitVec.getLsbD_or, BitVec.getLsbD_and, hstored, Bool.and_false, Bool.false_or,
    BitVec.getLsbD_shiftLeft, BitVec.getLsbD_setWidth, Nat.add_sub_cancel_left, bits8_getLsbD _ hl]
  simp [hword, show l < 32 by omega]

/-! ## MFC0 -/

/-- Where CP0 is usable MFC0 retires as a load does, with the value of the register of that number (R263). -/
theorem exec_mfc0_result {s : State} {rt rd : Reg} {r : Cp0Reg} (hu : s.cpu.unprivileged = false)
    (hr : s.cp0Of rd = some r) :
    ∃ t, exec (.mfc0 rt rd) s = .next t ∧ s.LoadResult t rt (s.cp0Read (some r)).1 := by
  obtain ⟨n, hn⟩ := s.cp0Read_drawn (some r)
  refine ⟨(s.drawn n).retireLoad rt (s.cp0Read (some r)).1, ?_, (s.drawn n).retireLoad_result rt _⟩
  rw [← hn, ← hr]
  exact s.withCp0_of_privileged hu _

/-- Settles O39: register by register, the value that `State.cp0Read` answers. -/
theorem mfc0Completes : Obligations.Mfc0Completes := by
  intro s rt rd r hu hr hst
  obtain ⟨t, ht, hres⟩ := exec_mfc0_result (rt := rt) hu hr
  refine ⟨t, _, ht, hres, ?_⟩
  cases r with
  | status => exact State.statusRead_of_named (hst rfl)
  | cause =>
    refine ⟨State.causeRead_and (by decide), ?_, fun l hl => s.causeRead_ip hl⟩
    have hnone : causeStored &&& 0x4FFF0083#32 = 0#32 := by decide
    exact (State.causeRead_and (by decide)).trans (hnone ▸ BitVec.and_zero)
  | random => exact tlbIndexWord_toNat _
  | prid => exact BitVec.toNat_setWidth_of_le (by decide)
  | index | entryLo | badVAddr | timer | entryHi | epc => rfl

/-! ## TLB moves -/

theorem Cpu.tlbGet_tlbSet (c : Cpu) (i j : TlbIx) (e : TlbEntry) :
    (c.tlbSet i e).tlbGet j = if j = i then e else c.tlbGet j := by
  simp only [Cpu.tlbGet, Cpu.tlbSet_tlb, Vector.getElem_set, BitVec.toNat_inj, eq_comm (a := i)]

/-- With an Index below TLBSIZE the TLB instructions that use it have their effect (R266, D11). -/
theorem State.withTlbIndex_of_lt {s : State} {effect : TlbIx → Out}
    (h : (tlbIndexOf s.cpu.index).toNat < s.cfg.tlbSize) :
    s.withTlbIndex effect = effect (tlbIndexOf s.cpu.index) := by
  rw [State.withTlbIndex, if_pos h]

/-- What the write of EntryHi and EntryLo to a slot changes and what it leaves alone, whatever free values choosing the
slot drew (R266, R267). -/
theorem State.tlbWrite_result (s : State) (i : TlbIx) (n : Nat) {t : State}
    (ht : t = (State.drawn { s with cpu := s.cpu.tlbSet i s.cpu.entryHeld } n).retire) :
    t.cpu.tlbGet i = { hi := s.cpu.entryHi, lo := s.cpu.entryLo } ∧
    (∀ j ≠ i, t.cpu.tlbGet j = s.cpu.tlbGet j) ∧ s.cpu.SameControl { t.cpu with tlb := s.cpu.tlb } ∧
    s.cpu.SameRegs t.cpu ∧ s.cpu.SameHiLo t.cpu ∧ s.cpu.Retired t.cpu ∧ s.SameMem t ∧ s.SameMachine t := by
  subst ht
  exact ⟨(s.cpu.tlbGet_tlbSet i i _).trans (if_pos rfl), fun j hj => (s.cpu.tlbGet_tlbSet i j _).trans (if_neg hj),
    Cpu.SameControl.refl s.cpu, s.retire_with_cpu (s.cpu.tlbSet i s.cpu.entryHeld) rfl rfl rfl rfl⟩

/-- Settles O41: TLBR and TLBWI at the slot of Index, TLBWR at a slot that is in range in every valid configuration. -/
theorem tlbMovesComplete : Obligations.TlbMovesComplete := by
  refine fun s i hu => ⟨?indexed, fun hv => ?random⟩
  case indexed =>
    rintro rfl hi
    have hcp0 := s.withCp0_of_privileged hu
    exact ⟨⟨_, (hcp0 _).trans (State.withTlbIndex_of_lt hi), rfl, rfl, Cpu.SameControl.refl s.cpu,
        s.retire_with_cpu (s.cpu.tlbReadAt (tlbIndexOf s.cpu.index)) rfl rfl rfl rfl⟩,
      ⟨_, (hcp0 _).trans (State.withTlbIndex_of_lt hi), s.tlbWrite_result _ 0 rfl⟩⟩
  case random =>
    obtain ⟨hlow, hhigh⟩ := State.randomSlot_range hv
    exact ⟨_, s.randomSlot, s.withCp0_of_privileged hu _, hlow, hhigh, s.tlbWrite_result _ 1 rfl⟩

/-! ## SYSCALL, BREAK, RFE and WAIT -/

/-- Settles O37: both end in the entry of their exception, without a test. -/
theorem systemCallsEnter : Obligations.SystemCallsEnter := fun _ _ => ⟨exec_takes rfl, exec_takes rfl⟩

/-- The pop leaves the old pair and everything above the stack alone (R269). -/
theorem popKuIe_above (st : Word) : (popKuIe st).extractLsb' 4 28 = st.extractLsb' 4 28 :=
  mergeBits_extract_old (by decide) _ _

/-- Settles O43: RFE pops the stack in Status, WAIT writes the power state, and each retires. -/
theorem rfeAndWaitComplete : Obligations.RfeAndWaitComplete := fun s hu =>
  have hcp0 := s.withCp0_of_privileged hu
  ⟨⟨_, hcp0 _, popKuIe_stack _, popKuIe_above _, Cpu.SameControl.refl s.cpu,
      s.retire_with_cpu s.cpu.returnFromException rfl rfl rfl rfl⟩,
    ⟨_, hcp0 _, rfl, Cpu.SameControl.refl s.cpu,
      s.retire_with_cpu { s.cpu with power := .idle, signalled := false } rfl rfl rfl rfl⟩⟩

end Sys2Proof.Machine
end

section
/-! PROOFS. Compare and swap at an address that the translation accepts (45_cas.md R290, R292; O32). `memCas` has two
answers there, the swap and the failure; either way the instruction retires as any that writes a register, with the
flag, and with the memory of the answer. -/

namespace Sys2Proof.Machine

section
variable {s : State} {ea expected new : Word} {pa : Nat}

/-- A word of RAM that is the expected one is replaced (R290). -/
theorem State.memCas_of_eq (ht : s.Reaches .store .word ea pa) (hram : regionOf s.cfg pa = .ram)
    (heq : s.mem.readWord s.cfg.bigEndian pa = expected) :
    s.memCas ea expected new = .ok (true, s.mem.writeWord s.cfg.bigEndian pa new) := by
  obtain ⟨p, hp, rfl⟩ := ht
  simp only [State.memCas, hp, hram, heq, if_true]

/-- Outside RAM, and on any other word, CAS fails without an exception (R290, R292, D38). -/
theorem State.memCas_of_ne (ht : s.Reaches .store .word ea pa)
    (h : regionOf s.cfg pa ≠ .ram ∨ s.mem.readWord s.cfg.bigEndian pa ≠ expected) :
    s.memCas ea expected new = .ok (false, s.mem) := by
  obtain ⟨p, hp, rfl⟩ := ht
  rw [State.memCas, hp]
  dsimp only
  split
  case h_1 hram => rw [if_neg (h.resolve_left (not_not_intro hram))]
  case h_2 => rfl

/-- CAS retires with the flag of its access in `rd` and the memory after it (R290). -/
theorem exec_cas_of_memCas {rd rs rt : Reg} {swapped : Bool} {m : Memory}
    (h : s.memCas (s.cpu.src rs) (s.cpu.src rt) (s.cpu.src rd) = .ok (swapped, m)) :
    exec (.cas rd rs rt) s = .next { s.retireReg rd (boolWord swapped) with mem := m } := by
  change execCas rd rs rt s = _
  rw [execCas, h, Res.map_ok, State.finish_ok]

end

/-- Settles O32: a swap is the register result of the flag beside the store of a word; a failure is the register result
alone. -/
theorem casCompletes : Obligations.CasCompletes := by
  refine fun s rd rs rt pa ht => ⟨fun hram heq => ?swaps, fun hfail => ?fails⟩
  case swaps =>
    obtain ⟨hreg, hretired, hhilo, hcontrol, -, hmachine⟩ := s.retireReg_result rd 1
    exact ⟨_, exec_cas_of_memCas (State.memCas_of_eq ht hram heq), hreg, Memory.readWord_writeWord _ _ _ _,
      Memory.read_writeWidth_outside _ _ .word _ _, hretired, hhilo, hcontrol, hmachine⟩
  case fails => exact ⟨_, exec_cas_of_memCas (State.memCas_of_ne ht hfail), s.retireReg_result rd 0⟩

end Sys2Proof.Machine
end

section
/-! PROOFS. Loads have no side effect (O22), and user mode without CP0 is confined (O60). A load that completes is the
entry of an exception or a load result. In user mode every COP0 instruction is an entry, and a store reaches RAM,
because a translation answers no address below RAM and nothing but RAM has an effect from there on. -/

namespace Sys2Proof.Machine

/-! ## Loads (R105) -/

/-- A load of some width writes its register, whatever free values it drew, or takes an exception. -/
theorem State.load_next {s t : State} {w : Width} {ea : Word} {rt : Reg} {ext : Word → Word}
    (h : s.load w ea rt ext = .next t) : (∃ v, s.LoadResult t rt v) ∨ ∃ e, s.Entered t e := by
  unfold State.load at h
  rcases s.memLoad_cases w ea with ⟨v, n, hload⟩ | ⟨e, hload⟩ | hload <;> rw [hload] at h
  · cases h
    exact .inl ⟨_, (s.drawn n).retireLoad_result rt (ext v)⟩
  · cases h
    exact .inr ⟨e, s.enter_entered e⟩
  · cases h

theorem State.loadAround_next {s t : State} {ea : Word} {rt : Reg} {merge : Word → Word → Word}
    (h : s.loadAround ea rt merge = .next t) : (∃ v, s.LoadResult t rt v) ∨ ∃ e, s.Entered t e := by
  unfold State.loadAround at h
  cases hload : s.memLoadAround ea with
  | ok v =>
    rw [hload] at h
    cases h
    exact .inl ⟨_, s.retireLoad_result rt _⟩
  | exc e =>
    rw [hload] at h
    cases h
    exact .inr ⟨e, s.enter_entered e⟩
  | refuse r => rw [hload] at h; cases h

/-- Settles O22: the five loads of a width and the two of the word around the address. -/
theorem loadsHaveNoSideEffect : Obligations.LoadsHaveNoSideEffect := by
  intro s t rt base off i hi h
  simp only [List.mem_cons, List.not_mem_nil, or_false] at hi
  rcases hi with rfl | rfl | rfl | rfl | rfl | rfl | rfl
  case inl | inr.inl | inr.inr.inl | inr.inr.inr.inl | inr.inr.inr.inr.inl =>
    simp only [exec, execLb, execLbu, execLh, execLhu, execLw] at h
    exact State.load_next h
  all_goals exact State.loadAround_next h

/-! ## What is confined -/

/-- From `s` to `t` an exception was taken, or CP0, the TLB, the bus, the devices, the other processors and the bytes
outside RAM are as before. -/
def State.Confined (s t : State) : Prop :=
  (∃ e, s.Entered t e) ∨
    (s.cpu.SameControl t.cpu ∧ s.SameMachine t ∧
      ∀ a, t.mem.read a ≠ s.mem.read a → 0x20000000 ≤ a ∧ a < s.cfg.ramTop)

/-- The next state of an outcome, if it has one, is confined. -/
def State.NextConfined (s : State) (o : Out) : Prop := ∀ t, o = .next t → s.Confined t

section
variable {s t : State}

theorem State.confined_enter (e : Exc) : s.Confined (s.enter e) := .inl ⟨e, s.enter_entered e⟩

theorem State.confined_of_sameMem (hc : s.cpu.SameControl t.cpu) (hmem : s.SameMem t) (hm : s.SameMachine t) :
    s.Confined t := .inr ⟨hc, hm, fun a ha => absurd (hmem a) ha⟩

theorem State.RegisterResult.confined {rd : Reg} {v : Word} (h : s.RegisterResult t rd v) : s.Confined t :=
  have ⟨_, _, _, hc, hmem, hm⟩ := h
  State.confined_of_sameMem hc hmem hm

theorem State.HiLoResult.confined {hi lo : Word} (h : s.HiLoResult t hi lo) : s.Confined t :=
  have ⟨_, _, _, _, hc, hmem, hm⟩ := h
  State.confined_of_sameMem hc hmem hm

theorem State.LoadResult.confined {rt : Reg} {v : Word} (h : s.LoadResult t rt v) : s.Confined t :=
  have ⟨_, _, _, hc, _, hmem, hm⟩ := h
  State.confined_of_sameMem hc hmem hm

theorem State.BranchResult.confined {target : Option Word} {link : Option (Reg × Word)}
    (h : s.BranchResult t target link) : s.Confined t :=
  have ⟨_, _, _, hc, hmem, hm⟩ := h
  State.confined_of_sameMem hc hmem hm

/-- A store into RAM changes bytes of RAM only. -/
theorem State.StoreResult.confined {a n : Nat} (h : s.StoreResult t a n) (ha : 0x20000000 ≤ a)
    (hn : a + n ≤ s.cfg.ramTop) : s.Confined t := by
  obtain ⟨-, -, -, hc, hmem, hm⟩ := h
  refine .inr ⟨hc, hm, fun b hb => ?_⟩
  have hin : ¬ (b < a ∨ a + n ≤ b) := fun hout => hb (hmem b hout)
  omega

theorem State.nextConfined_next (h : s.Confined t) : s.NextConfined (.next t) := by
  rintro _ ⟨⟩
  exact h

theorem State.nextConfined_refused (r : Refusal) : s.NextConfined (.refused r) := fun _ h => nomatch h

theorem State.nextConfined_notInDelay {o : Out} (ho : s.NextConfined o) : s.NextConfined (s.notInDelay o) :=
  fun t h => ho t (State.notInDelay_next h).2

theorem State.nextConfined_trapOrWrite (rd : Reg) (n : Int) : s.NextConfined (s.trapOrWrite rd n) := by
  unfold State.trapOrWrite
  split
  · exact State.nextConfined_next (State.confined_enter .ov)
  · exact State.nextConfined_next (s.retireReg_result _ _).confined

theorem State.nextConfined_branchIf (taken : Bool) (off : Half) : s.NextConfined (s.branchIf taken off) :=
  State.nextConfined_notInDelay (State.nextConfined_next (s.retireBranch_result _).confined)

theorem State.nextConfined_branchLinkIf (rs : Reg) (taken : Bool) (off : Half) :
    s.NextConfined (s.branchLinkIf rs taken off) := by
  refine State.nextConfined_notInDelay ?_
  split
  · exact State.nextConfined_refused _
  · exact State.nextConfined_next (s.retireLink_result _ _).confined

/-- The load result of any of the seven loads is confined. -/
theorem State.nextConfined_load {rt base : Reg} {off : Half} {i : Instr}
    (hi : i ∈ [.lb rt base off, .lbu rt base off, .lh rt base off, .lhu rt base off, .lw rt base off,
      .lwl rt base off, .lwr rt base off]) : s.NextConfined (exec i s) := by
  intro t h
  rcases loadsHaveNoSideEffect s t rt base off i hi h with ⟨v, hv⟩ | hentered
  · exact hv.confined
  · exact .inl hentered

/-- An access that raises an exception, or computes a confined state. -/
theorem State.nextConfined_finish {r : Res State} (h : (∃ e, r = .exc e) ∨ ∃ u, r = .ok u ∧ s.Confined u) :
    s.NextConfined (s.finish r) := by
  rcases h with ⟨e, rfl⟩ | ⟨u, rfl, hu⟩
  · exact State.nextConfined_next (State.confined_enter e)
  · exact State.nextConfined_next hu

end

/-! ## Stores of user mode -/

/-- A translation answers an address that is aligned as the access is (R102, R110). -/
theorem translateAddr_aligned {cfg : Config} {c : Cpu} {k : Access} {w : Width} {va pa : Word}
    (h : translateAddr cfg c k w va = .ok pa) : pa.toNat % w.bytes = 0 := by
  have hva : va.toNat % w.bytes = 0 := by
    by_contra hva
    rw [translateAddr_misaligned hva] at h
    cases h
  have hoff : (offsetOf pa).toNat = (offsetOf va).toNat := congrArg _ (translateAddr_offsetOf h)
  simp only [offsetOf, BitVec.extractLsb'_toNat, Nat.shiftRight_zero] at hoff
  cases w <;> simp only [Width.bytes] at hva ⊢ <;> omega

/-- From the start of RAM on there is RAM or nothing (R91, R92). -/
theorem regionOf_above {cfg : Config} (hv : cfg.valid = true) {a : Nat} (ha : 0x20000000 ≤ a) :
    (regionOf cfg a = .ram ∧ a < cfg.ramTop) ∨ regionOf cfg a = .undefined := by
  obtain ⟨hexec, hboot, -, -⟩ := Config.valid_areas hv
  have hcases := regionOf_cases hv a
  unfold OutsideRegisters at hcases
  rcases hcases with ⟨-, hrom⟩ | ⟨-, hbios⟩ | ⟨hram, hin⟩ | ⟨-, hreg⟩ | ⟨hnone, -⟩
  · omega
  · omega
  · exact .inl ⟨hram, hin.2⟩
  · omega
  · exact .inr hnone

section
variable {s : State} (hv : s.cfg.valid = true) (hu : s.cpu.status.getLsbD 1 = true)
include hv hu

/-- What an access of user mode comes to: the exception of its translation, RAM, or an address where nothing is
(R361). -/
theorem State.userAccess_cases (k : Access) (w : Width) (ea : Word) :
    (∃ e, translateAddr s.cfg s.cpu k w ea = .error e) ∨
    ∃ pa, s.Reaches k w ea pa ∧ 0x20000000 ≤ pa ∧ pa % w.bytes = 0 ∧
      ((regionOf s.cfg pa = .ram ∧ pa < s.cfg.ramTop) ∨ regionOf s.cfg pa = .undefined) := by
  cases ht : translateAddr s.cfg s.cpu k w ea with
  | error e => exact .inl ⟨e, rfl⟩
  | ok p =>
    have hp := (userAddresses _ _ _ _ _ _ hu ht).2
    exact .inr ⟨p.toNat, ⟨p, ht, rfl⟩, hp, translateAddr_aligned ht, regionOf_above hv hp⟩

theorem State.nextConfined_store (w : Width) (ea v : Word) : s.NextConfined (s.finish (s.memStore w ea v)) := by
  refine State.nextConfined_finish ?_
  rcases State.userAccess_cases hv hu .store w ea with ⟨e, ht⟩ | ⟨pa, ht, hlow, haligned, ⟨hram, hhigh⟩ | hnone⟩
  · exact .inl ⟨e, State.memStore_refused ht⟩
  · refine .inr ⟨_, s.memStore_writable w ea v pa ht (.inl hram), (s.store_result w pa v).confined hlow ?_⟩
    rw [Config.ramTop_eq] at hhigh ⊢
    cases w <;> simp only [Width.bytes] at haligned ⊢ <;> omega
  · exact .inl ⟨_, State.memStore_unwritable ht (by simp [hnone])⟩

theorem State.nextConfined_storeAround (ea v : Word) (lanes : Nat → Bool) :
    s.NextConfined (s.finish (s.memStoreAround ea v lanes)) := by
  refine State.nextConfined_finish ?_
  rcases State.userAccess_cases hv hu .store .byte ea with ⟨e, ht⟩ | ⟨pa, ht, hlow, -, -⟩
  · exact .inl ⟨e, State.memStoreAround_refused lanes ht⟩
  have hword : 0x20000000 ≤ alignedAddr pa := by unfold alignedAddr; omega
  rcases regionOf_above hv hword with ⟨hram, hhigh⟩ | hnone
  · refine .inr ⟨_, s.memStoreAround_writable ea v lanes pa ht (.inl hram),
      (s.storeAround_result _ v lanes).confined hword ?_⟩
    rw [Config.ramTop_eq] at hhigh ⊢
    unfold alignedAddr at hhigh ⊢
    omega
  · exact .inl ⟨_, State.memStoreAround_unwritable lanes ht (by simp [hnone])⟩

/-- CAS writes a word of RAM or no memory at all (R290, R292). -/
theorem State.nextConfined_cas (rd rs rt : Reg) : s.NextConfined (exec (.cas rd rs rt) s) := by
  rcases State.userAccess_cases hv hu .store .word (s.cpu.src rs) with ⟨e, ht⟩ | ⟨pa, ht, hlow, haligned, hregion⟩
  · exact State.nextConfined_finish (.inl ⟨e, by rw [State.memCas_refused _ _ ht, Res.map_exc]⟩)
  by_cases hswap : regionOf s.cfg pa = .ram ∧ s.mem.readWord s.cfg.bigEndian pa = s.cpu.src rt
  · obtain ⟨hram, heq⟩ := hswap
    obtain ⟨-, -, -, hc, -, hm⟩ := s.retireReg_result rd (boolWord true)
    rw [exec_cas_of_memCas (State.memCas_of_eq ht hram heq)]
    refine State.nextConfined_next (.inr ⟨hc, hm, fun a ha => ?_⟩)
    have hin : ¬ (a < pa ∨ pa + 4 ≤ a) := fun hout => ha (Memory.read_writeWidth_outside _ _ .word _ _ _ hout)
    have hhigh : pa < s.cfg.ramTop := by
      rcases hregion with ⟨-, hhigh⟩ | hnone
      · exact hhigh
      · rw [hnone] at hram; cases hram
    rw [Config.ramTop_eq] at hhigh ⊢
    simp only [Width.bytes] at haligned
    omega
  · rw [exec_cas_of_memCas (State.memCas_of_ne ht (not_and_or.1 hswap))]
    exact State.nextConfined_next (s.retireReg_result rd (boolWord false)).confined

end

/-! ## Every instruction -/

theorem State.nextConfined_withCp0 {s : State} (hu : s.cpu.unprivileged = true) (o : Out) :
    s.NextConfined (s.withCp0 o) := by
  intro t h
  rcases State.withCp0_next h with ⟨husable, -⟩ | ⟨-, rfl⟩
  · rw [Cpu.cp0Usable_eq, hu] at husable
    cases husable
  · exact State.confined_enter _

/-- Settles O60: the instructions in the groups of their shared meanings. -/
theorem userModeIsConfined : Obligations.UserModeIsConfined := by
  intro s t i hv hp h
  have hu : s.cpu.status.getLsbD 1 = true := (Bool.and_eq_true_iff.1 hp).1
  revert t
  show s.NextConfined (exec i s)
  cases i
  case add | sub | addi => exact State.nextConfined_trapOrWrite _ _
  case addu | subu | and | or | xor | nor | slt | sltu | addiu | slti | sltiu | andi | ori | xori | lui
      | sll | srl | sra | sllv | srlv | srav | mfhi | mflo =>
    exact State.nextConfined_next (s.retireReg_result _ _).confined
  case mult | multu | mthi | mtlo => exact State.nextConfined_next (s.retireHiLo_result _ _).confined
  case div =>
    refine State.nextConfined_next ?_
    split
    · exact (s.retireHiLo_result _ _).confined
    · exact s.retireFreeHiLo_result.confined
  case divu =>
    refine State.nextConfined_next ?_
    split
    · exact s.retireFreeHiLo_result.confined
    · exact (s.retireHiLo_result _ _).confined
  case lb rt base off | lbu rt base off | lh rt base off | lhu rt base off | lw rt base off | lwl rt base off
      | lwr rt base off => exact State.nextConfined_load (rt := rt) (base := base) (off := off) (by simp)
  case sb | sh | sw => exact State.nextConfined_store hv hu _ _ _
  case swl | swr => exact State.nextConfined_storeAround hv hu _ _ _
  case cas => exact State.nextConfined_cas hv hu _ _ _
  case j | jr => exact State.nextConfined_notInDelay (State.nextConfined_next (s.retireBranch_result _).confined)
  case jal => exact State.nextConfined_notInDelay (State.nextConfined_next (s.retireLink_result _ _).confined)
  case jalr =>
    refine State.nextConfined_notInDelay ?_
    split
    · exact State.nextConfined_refused _
    · exact State.nextConfined_next (s.retireLink_result _ _).confined
  case beq | bne | blez | bgtz | bltz | bgez => exact State.nextConfined_branchIf _ _
  case bltzal | bgezal => exact State.nextConfined_branchLinkIf _ _ _
  case syscall | brk => exact State.nextConfined_next (State.confined_enter _)
  case mfc0 | mtc0 | tlbr | tlbwi | tlbwr | tlbp | rfe | wait => exact State.nextConfined_withCp0 hp _

end Sys2Proof.Machine
end

section
/-! PROOFS. Exception entry (O44), what the exceptions record (O45), when an interrupt is taken and what makes its line
pending (O47), the processors that execute nothing (O50), and the clocks at the end of a tick (O54). -/

namespace Sys2Proof.Machine

/-! ## Exceptions -/

/-- Settles O44: the entry of an exception is `State.enter`. -/
theorem entryIsComplete : Obligations.EntryIsComplete := fun s e => s.enter_entered e

theorem Exc.code_tlbInvalid (k : Access) (va : Word) : (Exc.tlbInvalid k va).code = if k = .store then 3 else 2 := by
  cases k <;> rfl

/-- A TLB-Refill has the code of a TLB-Invalid (D41). -/
theorem Exc.code_tlbRefill (k : Access) (va : Word) : (Exc.tlbRefill k va).code = if k = .store then 3 else 2 := by
  cases k <;> rfl

theorem Exc.code_addressError (k : Access) (va : Word) :
    (Exc.addressError k va).code = if k = .store then 5 else 4 := by
  cases k <;> rfl

theorem Exc.code_busError (k : Access) (va : Word) : (Exc.busError k va).code = if k = .fetch then 6 else 7 := by
  cases k <;> rfl

/-- Settles O45: the codes that depend on the access by `Exc.code_tlbInvalid` and the lemmas beside it, every other
entry of the table by its row. -/
theorem exceptionsRecord : Obligations.ExceptionsRecord := by
  intro k va z
  simp only [List.forall_mem_cons]
  exact ⟨⟨⟨Exc.code_tlbInvalid k va, rfl, rfl, rfl⟩, ⟨Exc.code_tlbRefill k va, rfl, rfl, rfl⟩, nofun⟩,
    ⟨rfl, rfl, rfl, rfl⟩, ⟨Exc.code_addressError k va, rfl, rfl, rfl⟩, ⟨Exc.code_busError k va, rfl, rfl, rfl⟩,
    ⟨rfl, rfl, rfl, rfl⟩,
    ⟨⟨rfl, rfl, rfl, rfl⟩, ⟨rfl, rfl, rfl, rfl⟩, ⟨rfl, rfl, rfl, rfl⟩, ⟨rfl, rfl, rfl, rfl⟩, ⟨rfl, rfl, rfl, rfl⟩,
      nofun⟩,
    rfl, rfl, rfl, rfl, rfl, rfl, rfl, rfl, rfl, rfl, rfl, nofun⟩

/-! ## Pending lines -/

theorem State.delivered_iff (s : State) (e : Nat) (req : IntReq) (p : CpuId) :
    s.delivered e req p = true ↔ s.RoutedTo e req p := by
  rw [State.delivered, State.RoutedTo, Bool.and_eq_true]
  refine and_congr_right fun _ => ?_
  unfold irtDynamic irtStaticDest
  split
  · exact beq_iff_eq
  · exact beq_iff_eq

theorem State.linePending_ipi (s : State) (c : Cpu) : s.linePending c 0 = true ↔ ∃ i, i ∈ c.ipiQueue := by
  show (!c.ipiQueue.isEmpty) = true ↔ _
  cases c.ipiQueue <;> simp

theorem State.linePending_localTimer (s : State) (c : Cpu) :
    s.linePending c 1 = true ↔ c.pltPending = true ∧ c.status.getLsbD 27 = true :=
  Bool.and_eq_true_iff

/-- The devices of a line are the eight from `8 * (l - 3)` on (R400). -/
theorem State.linePending_devices (s : State) (c : Cpu) {l : Nat} (hl : 3 ≤ l) :
    s.linePending c l = true ↔
      ∃ n d r, (n, d) ∈ s.devices ∧ 8 * (l - 3) ≤ n ∧ n < 8 * (l - 2) ∧ r ∈ d.reqs ∧ s.RoutedTo (n + 8) r c.prid := by
  have hline : s.linePending c l = s.lineFromDevices l c.prid := by
    obtain ⟨k, rfl⟩ := Nat.exists_eq_add_of_le' hl
    rfl
  have hnumber : ∀ n, lineOfDevice n = l ↔ 8 * (l - 3) ≤ n ∧ n < 8 * (l - 2) := by
    intro n
    unfold lineOfDevice
    omega
  simp only [hline, State.lineFromDevices, List.any_eq_true, Bool.and_eq_true, beq_iff_eq, State.delivered_iff, hnumber,
    irtOfDevice, Prod.exists]
  constructor
  · rintro ⟨n, d, hd, ⟨hlow, hhigh⟩, r, hr, hrouted⟩
    exact ⟨n, d, r, hd, hlow, hhigh, hr, hrouted⟩
  · rintro ⟨n, d, r, hd, hlow, hhigh, hr, hrouted⟩
    exact ⟨n, d, hd, ⟨hlow, hhigh⟩, r, hr, hrouted⟩

/-- An accepted interrupt displaces the instruction (R354). -/
theorem step_intAccepted {s : State} (hs : s.stopped = false) (hp : s.cpu.power = .running)
    (hi : s.intAccepted = true) : step s = .next (s.enter .int).endTurn := by
  simp [step, State.turn, State.runTurn, turnOver, hs, hp, hi]

/-- Settles O47: acceptance by `State.intAccepted_iff`, the lines one by one. -/
theorem interruptsAreTaken : Obligations.InterruptsAreTaken := by
  refine ⟨fun s hs hp => ⟨?_, fun hnone => ?_⟩, fun s c => ⟨s.linePending_ipi c, s.linePending_localTimer c,
    s.delivered_iff 0 _ _, fun l hl _ => s.linePending_devices c hl⟩⟩
  · rintro ⟨l, hl, hie, hmask, hpending⟩
    exact step_intAccepted hs hp (s.intAccepted_iff.2 ⟨hie, l, hl, hmask, hpending⟩)
  · rw [Bool.eq_false_iff, ne_eq, State.intAccepted_iff]
    rintro ⟨hie, l, hl, hmask, hpending⟩
    exact absurd (hnone l hl) (by rw [hie, hmask, hpending]; decide)

/-! ## Processors that execute nothing -/

/-- Cause.IP is 0 when no line is pending (R39). -/
theorem State.causeIP_ne_zero_iff (s : State) (c : Cpu) : s.causeIP c ≠ 0 ↔ ∃ l < 8, s.linePending c l = true := by
  constructor
  · intro hne
    by_contra hall
    refine hne (BitVec.eq_of_getLsbD_eq fun l hl => ?_)
    have hclear : s.linePending c l = false := Bool.eq_false_iff.2 fun hpending => hall ⟨l, hl, hpending⟩
    simp [State.causeIP, bits8_getLsbD _ hl, hclear]
  · rintro ⟨l, hl, hpending⟩ hzero
    rw [← bits8_getLsbD (s.linePending c) hl, ← State.causeIP, hzero] at hpending
    simp at hpending

/-- Any pending line wakes an Idle processor, masked or not (R480, log 25). -/
theorem State.wakes_iff {s : State} (hw : s.cfg.waitNeedsSignal = false) :
    s.wakes = true ↔ ∃ l < 8, s.linePending s.cpu l = true := by
  rw [State.wakes, hw, if_neg Bool.false_ne_true, bne_iff_ne, State.causeIP_ne_zero_iff]

theorem step_idle {s : State} (hs : s.stopped = false) (hp : s.cpu.power = .idle) :
    step s = .next s.idleTurn.endTurn := by
  simp [step, State.turn, turnOver, hs, hp]

/-- Settles O50: the turn of each power state, and for an Idle processor whether it wakes. -/
theorem sleepingProcessors : Obligations.SleepingProcessors := by
  refine fun s => ⟨fun hs hp => ?asleep, fun hs hp hw hpending => ?wakes, fun hs hp hw hnone => ?sleepsOn,
    fun hs => ?off⟩
  case asleep => rcases hp with hp | hp <;> simp [step, State.turn, turnOver, hs, hp]
  case wakes => rw [step_idle hs hp, State.idleTurn, if_pos ((State.wakes_iff hw).2 hpending)]
  case sleepsOn =>
    have hstays : ¬ s.wakes = true := by
      rw [State.wakes_iff hw]
      rintro ⟨l, hl, hpending⟩
      exact Bool.false_ne_true ((hnone l hl).symm.trans hpending)
    rw [step_idle hs hp, State.idleTurn, if_neg hstays]
  case off => rw [step, if_pos hs]

/-! ## Clocks -/

/-- The Interval Timer counts down in every tick, also past 0 (R371). -/
theorem State.tickInterval_intervalTimer (s : State) : s.tickInterval.intervalTimer = s.intervalTimer - 1 := by
  unfold State.tickInterval
  split
  · exact congrArg (· - 1) (s.quiet_raiseReq 0 s.itReq).intervalTimer
  · rfl

/-- The Interval Timer's interrupt is raised by the underflow and by nothing else in a tick (R371). -/
theorem State.tickInterval_pending (s : State) :
    s.tickInterval.itReq.pending = true ↔ s.itReq.pending = true ∨ s.intervalTimer = 0 := by
  unfold State.tickInterval
  split
  · next hzero => exact iff_of_true (s.raiseReq_pending 0 s.itReq) (.inr hzero)
  · next hcount => exact (or_iff_left hcount).symm

/-- The clocks of the current processor tick as it was: the Interval Timer's interrupt only signals it. -/
theorem State.tickClocks_cpu (s : State) : ∃ b, s.tickClocks.cpu = Cpu.tick s.cfg { s.cpu with signalled := b } := by
  obtain ⟨_, hq⟩ := s.quiet_tickInterval
  exact ⟨_, congrArg (Cpu.tick s.cfg) hq.cpu.symm⟩

/-- The local timer counts while Status.TE is 1, and interrupts on the underflow (R48). -/
theorem Cpu.tick_timer_enabled {cfg : Config} {c : Cpu} (hp : c.power ≠ .halted) (hte : c.status.getLsbD 27 = true) :
    (c.tick cfg).timer = c.timer - 1 ∧ (c.tick cfg).pltPending = (c.pltPending || c.timer == 0) := by
  have hte' : statusTE c.status = true := hte
  simp [Cpu.tick, Cpu.tickTimer, hp, hte']

theorem Cpu.tick_timer_disabled {cfg : Config} {c : Cpu} (hte : c.status.getLsbD 27 = false) :
    (c.tick cfg).timer = c.timer ∧ (c.tick cfg).pltPending = c.pltPending := by
  have hte' : statusTE c.status = false := hte
  by_cases hp : c.power = .halted
  · simp [Cpu.tick, hp]
  · simp [Cpu.tick, Cpu.tickTimer, hp, hte']

/-- Settles O54: the clocks one by one. -/
theorem clocksTick : Obligations.ClocksTick := by
  intro s
  obtain ⟨b, hcpu⟩ := s.tickClocks_cpu
  refine ⟨BitVec.toNat_add _ _, ?_, s.tickInterval_pending, fun hp hte => ?_, fun hte => ?_⟩
  · have hcount : s.tickClocks.intervalTimer = s.intervalTimer - 1 := s.tickInterval_intervalTimer
    rw [hcount]
    bv_omega
  · obtain ⟨htimer, hpending⟩ := Cpu.tick_timer_enabled (cfg := s.cfg) (c := { s.cpu with signalled := b }) hp hte
    rw [hcpu, htimer, hpending, Bool.or_eq_true, beq_iff_eq]
    exact ⟨rfl, Iff.rfl⟩
  · rw [hcpu]
    exact Cpu.tick_timer_disabled (c := { s.cpu with signalled := b }) hte

end Sys2Proof.Machine
end

section
/-! PROOFS. The memory-mapped registers in kernel mode with the TLB off (60_exceptions.md R371-R396; 20_memory.md R94):
what LW of a bus register reads (O27), which stores have no effect (O28) and what the others do (O29). An address in a
register area names its register, LW answers `State.readRegister` of it and SW `State.writeRegister`. -/

namespace Sys2Proof.Machine

/-! ## Which register an address names -/

section
variable {cfg : Config} {a : Nat}

theorem registerAt_bus (hlow : 0x10000000 ≤ a) (hhigh : a < 0x1000002C) :
    registerAt cfg a = busRegister ((a - 0x10000000) / 4) := by
  rw [registerAt, if_neg (by omega), if_pos hhigh]

/-- The two bit maps (R402, R403). -/
theorem registerAt_bitMaps (hlow : 0x1000002C ≤ a) (hhigh : a < 0x10000054) :
    ∃ j, registerAt cfg a = some (.installed j) ∨ registerAt cfg a = some (.interrupting j) := by
  rw [registerAt, if_neg (by omega), if_neg (by omega)]
  split_ifs
  · exact ⟨_, .inl rfl⟩
  · exact ⟨_, .inr rfl⟩

/-- The four words of each device register (R401). -/
theorem registerAt_device {n k : Nat} (hn : n < 40) (hk : k < 4) :
    registerAt cfg (0x10000054 + 16 * n + 4 * k) = some (.device n k) := by
  have hdevice : (0x10000054 + 16 * n + 4 * k - 0x10000054) / 16 = n := by omega
  have hword : (0x10000054 + 16 * n + 4 * k - 0x10000054) % 16 / 4 = k := by omega
  rw [registerAt, if_neg (by omega), if_neg (by omega), if_neg (by omega), if_neg (by omega), if_pos (by omega),
    hdevice, hword]

variable (hv : cfg.valid = true)
include hv

/-- The Interrupt Routing Table ends below the Processor Interface (R10, R392). -/
theorem registerAt_interface (hlow : 0x10000400 ≤ a) (hhigh : a < 0x10000414) :
    registerAt cfg a = interfaceRegister ((a - 0x10000400) / 4) := by
  obtain ⟨-, -, -, hirt⟩ := Config.valid_areas hv
  rw [registerAt, if_neg (by omega), if_neg (by omega), if_neg (by omega), if_neg (by omega), if_neg (by omega),
    if_neg (by omega), if_pos ⟨hlow, hhigh⟩]

theorem registerAt_control (hlow : 0x10000500 ≤ a) (hhigh : a < 0x10000518) :
    registerAt cfg a = controlRegister ((a - 0x10000500) / 4) := by
  obtain ⟨-, -, -, hirt⟩ := Config.valid_areas hv
  rw [registerAt, if_neg (by omega), if_neg (by omega), if_neg (by omega), if_neg (by omega), if_neg (by omega),
    if_neg (by omega), if_neg (by omega), if_pos ⟨hlow, hhigh⟩]

/-- The register areas overlap no memory (R85). -/
theorem regionOf_register {r : MmReg} (hr : registerAt cfg a = some r) : regionOf cfg a = .register r := by
  have hin : ¬ OutsideRegisters cfg a := by rw [← registerAt_none hv, hr]; nofun
  obtain ⟨hexec, -, -, hirt⟩ := Config.valid_areas hv
  unfold OutsideRegisters at hin
  rw [regionOf, if_neg (by omega), if_neg (by omega), if_neg (by omega), if_neg (by omega), hr]

end

/-- The word-aligned address of register `r`. -/
def RegisterIs (cfg : Config) (a : Word) (r : MmReg) : Prop :=
  a.toNat % 4 = 0 ∧ registerAt cfg a.toNat = some r

section
variable {cfg : Config} {a : Word} {r : MmReg}

theorem registerIs_bus (h : 0x10000000 ≤ a.toNat ∧ a.toNat < 0x1000002C ∧ a.toNat % 4 = 0 ∧
    busRegister ((a.toNat - 0x10000000) / 4) = some r) : RegisterIs cfg a r :=
  have ⟨hlow, hhigh, haligned, hr⟩ := h
  ⟨haligned, (registerAt_bus hlow hhigh).trans hr⟩

theorem registerIs_interface (hv : cfg.valid = true) (h : 0x10000400 ≤ a.toNat ∧ a.toNat < 0x10000414 ∧
    a.toNat % 4 = 0 ∧ interfaceRegister ((a.toNat - 0x10000400) / 4) = some r) : RegisterIs cfg a r :=
  have ⟨hlow, hhigh, haligned, hr⟩ := h
  ⟨haligned, (registerAt_interface hv hlow hhigh).trans hr⟩

theorem registerIs_control (hv : cfg.valid = true) (h : 0x10000500 ≤ a.toNat ∧ a.toNat < 0x10000518 ∧
    a.toNat % 4 = 0 ∧ controlRegister ((a.toNat - 0x10000500) / 4) = some r) : RegisterIs cfg a r :=
  have ⟨hlow, hhigh, haligned, hr⟩ := h
  ⟨haligned, (registerAt_control hv hlow hhigh).trans hr⟩

end

/-! ## LW and SW of a register -/

/-- In kernel mode with the TLB off an aligned address is physical (R82, R116). -/
theorem translateAddr_kernel_vmOff {cfg : Config} {c : Cpu} {ea : Word} (hk : c.status.getLsbD 1 = false)
    (hoff : cfg.tlbFloor = .vmOff) (ha : ea.toNat % 4 = 0) (k : Access) : translateAddr cfg c k .word ea = .ok ea := by
  have hunmapped : ¬ mapped cfg ea = true := by
    rw [mapped_iff, tlbFloorAddr, hoff, not_le]
    exact ea.isLt
  rw [translateAddr_past_tests ha (.inl hk), if_neg hunmapped]

section
variable {s : State} (hv : s.cfg.valid = true) (hk : s.cpu.status.getLsbD 1 = false) (hoff : s.cfg.tlbFloor = .vmOff)
  {rt base : Reg} {off : Half} {a : Word} (r : MmReg) (hr : RegisterIs s.cfg a r)
  (hea : s.cpu.src base + off.signExtend 32 = a)
include hv hk hoff hr hea

/-- LW of a register whose value is not free reads that value (R96). -/
theorem exec_lw_register {v : Word} (hread : s.readRegister r = (v, s)) :
    ∃ t, exec (.lw rt base off) s = .next t ∧ s.LoadResult t rt v := by
  obtain ⟨ha, hr⟩ := hr
  have hload : s.memLoad .word (s.ea base off) = .ok (v, s) := by
    change s.memLoad .word (s.cpu.src base + off.signExtend 32) = _
    simp only [hea, State.memLoad, translateAddr_kernel_vmOff hk hoff ha, State.physLoad, regionOf_register hv hr,
      hread, if_true]
  refine ⟨s.retireLoad rt v, ?_, s.retireLoad_result rt v⟩
  change s.finish ((s.memLoad .word (s.ea base off)).map fun p => p.2.retireLoad rt p.1) = _
  rw [hload, Res.map_ok, State.finish_ok]

/-- SW of a register has the register's effect after the instruction has retired (R96). -/
theorem exec_sw_register {t : State} (hwrite : s.retire.writeRegister (s.cpu.src rt) r = .ok t) :
    exec (.sw rt base off) s = .next t := by
  obtain ⟨ha, hr⟩ := hr
  have hstore : s.memStore .word (s.ea base off) (s.cpu.src rt) = .ok t := by
    change s.memStore .word (s.cpu.src base + off.signExtend 32) _ = _
    simp only [hea, State.memStore, translateAddr_kernel_vmOff hk hoff ha, State.physStore, regionOf_register hv hr,
      hwrite, if_true]
  change s.finish (s.memStore .word (s.ea base off) (s.cpu.src rt)) = _
  rw [hstore, State.finish_ok]

end

/-! ## What the registers read -/

/-- The oldest interrupt's origin stands above its message (R394). -/
theorem inboxWord_toNat (origin : CpuId) (message : Byte) :
    ((origin.setWidth 32 <<< 8) ||| message.setWidth 32 : Word).toNat = 256 * origin.toNat + message.toNat := by
  have horigin := origin.isLt
  have hmessage := message.isLt
  have hhigh : (origin.setWidth 32 <<< 8 : Word).toNat = origin.toNat <<< 8 := by
    rw [BitVec.toNat_shiftLeft, BitVec.toNat_setWidth_of_le (by decide), Nat.shiftLeft_eq]
    omega
  rw [BitVec.toNat_or, hhigh, BitVec.toNat_setWidth_of_le (by decide), ← Nat.shiftLeft_add_eq_or_of_lt hmessage,
    Nat.shiftLeft_eq, Nat.mul_comm]

/-- Settles O27: the register at each address, and what `State.readRegister` answers for it. -/
theorem busRegistersRead : Obligations.BusRegistersRead := by
  intro s rt base off hv hk hoff
  have lw : ∀ {a v : Word} (r : MmReg), RegisterIs s.cfg a r → s.readRegister r = (v, s) →
      s.cpu.src base + off.signExtend 32 = a → ∃ t, exec (.lw rt base off) s = .next t ∧ s.LoadResult t rt v :=
    fun r hr hread hea => exec_lw_register hv hk hoff r hr hea hread
  refine ⟨fun i rest hqueue hea => ?inbox, ?others⟩
  case inbox =>
    have hread : s.readRegister .inbox = ((i.origin.setWidth 32 <<< 8) ||| i.message.setWidth 32, s) := by
      simp only [State.readRegister, State.readInbox, hqueue]
    obtain ⟨t, ht, hres⟩ := lw .inbox (registerIs_interface hv (by decide)) hread hea
    exact ⟨t, _, ht, hres, inboxWord_toNat _ _⟩
  simp only [List.forall_mem_cons]
  refine ⟨lw .ramBase (registerIs_bus (by decide)) rfl, lw .ramSize (registerIs_bus (by decide)) ?ramSize,
    lw .execBase (registerIs_bus (by decide)) rfl, lw .execSize (registerIs_bus (by decide)) rfl,
    lw .bootBase (registerIs_bus (by decide)) rfl, lw .bootSize (registerIs_bus (by decide)) rfl,
    lw .todHi (registerIs_bus (by decide)) ?todHi, lw .todLo (registerIs_bus (by decide)) ?todLo,
    lw .intervalTimer (registerIs_bus (by decide)) rfl, lw .timeScale (registerIs_bus (by decide)) rfl,
    lw .tlbFloor (registerIs_bus (by decide)) ?tlbFloor, lw .tpr (registerIs_interface hv (by decide)) rfl,
    lw .biosReserved1 (registerIs_interface hv (by decide)) rfl,
    lw .biosReserved2 (registerIs_interface hv (by decide)) rfl, lw .ncpus (registerIs_control hv (by decide)) rfl,
    lw .bootPc (registerIs_control hv (by decide)) rfl, lw .bootSp (registerIs_control hv (by decide)) rfl, nofun⟩
  case ramSize => rw [State.readRegister, Config.ramSize, Nat.mul_comm]
  case todHi | todLo => exact congrArg (·, s) (BitVec.eq_of_getLsbD_eq fun i hi => by simp [hi])
  case tlbFloor => rw [State.readRegister, floorValue, hoff]

/-! ## Stores without an effect -/

/-- A register that ignores stores (R94). -/
def MmReg.IgnoresStores (r : MmReg) : Prop := ∀ (s : State) (v : Word), s.writeRegister v r = .ok s

/-- Of the Bus Register Area every word but the Interval Timer (R94, R375). -/
theorem busRegister_ignoresStores {n : Nat} (hn : n < 11) (htimer : n ≠ 8) :
    ∃ r, busRegister n = some r ∧ r.IgnoresStores := by
  match n with
  | 0 | 1 | 2 | 3 | 4 | 5 | 6 | 7 | 9 | 10 => exact ⟨_, rfl, fun _ _ => rfl⟩
  | 8 => exact absurd rfl htimer
  | n + 11 => omega

/-- The Bus Register Area but for the Interval Timer, and the bit maps (R94, R375). -/
theorem registerIs_ignoresStores {cfg : Config} {a : Word} (ha : a.toNat % 4 = 0) (hlow : 0x10000000 ≤ a.toNat)
    (hhigh : a.toNat < 0x10000054) (htimer : a.toNat ≠ 0x10000020) :
    ∃ r, RegisterIs cfg a r ∧ r.IgnoresStores := by
  by_cases hbus : a.toNat < 0x1000002C
  · obtain ⟨r, hr, hignores⟩ := busRegister_ignoresStores (n := (a.toNat - 0x10000000) / 4) (by omega) (by omega)
    exact ⟨r, ⟨ha, (registerAt_bus hlow hbus).trans hr⟩, hignores⟩
  · obtain ⟨j, hr | hr⟩ := registerAt_bitMaps (cfg := cfg) (a := a.toNat) (by omega) hhigh
    · exact ⟨_, ⟨ha, hr⟩, fun _ _ => rfl⟩
    · exact ⟨_, ⟨ha, hr⟩, fun _ _ => rfl⟩

/-- A controller that is not frozen is ready (R407). -/
theorem Ctl.frozen_iff (c : Ctl) : c.frozen = true ↔ c.act ≠ .ready := bne_iff_ne

/-- A store that a frozen controller ignores, or that has no effect on a ready one either (R407). -/
theorem Ctl.ifFrozen_ok {c : Ctl} {s : State} {effect : Res State} (h : effect = .ok s ∨ c.act ≠ .ready) :
    (if c.frozen then .ok s else effect) = .ok s := by
  split
  · rfl
  · next hready => exact h.resolve_right fun hact => hready (c.frozen_iff.2 hact)

/-- A read-only word of a device, and any word of one that is not installed (R94, R405, R407); the sub-devices of a
terminal freeze independently (R450). -/
theorem State.writeDevice_readOnly {s : State} {n k : Nat} (h : ∀ d, s.device n = some d → d.ReadOnlyWord k)
    (v : Word) : s.writeDevice n k v = .ok s := by
  unfold State.writeDevice
  split
  case h_1 => rfl
  case h_2 d hd | h_3 d hd =>
    rcases h _ hd with rfl | rfl | hbusy
    · exact Ctl.ifFrozen_ok (.inl rfl)
    · exact Ctl.ifFrozen_ok (.inl rfl)
    · exact Ctl.ifFrozen_ok (.inr hbusy)
  case h_4 d hd | h_5 d hd =>
    rcases h _ hd with rfl | hbusy
    · exact Ctl.ifFrozen_ok (.inl rfl)
    · exact Ctl.ifFrozen_ok (.inr hbusy)
  case h_6 d hd =>
    rcases h _ hd with rfl | rfl | ⟨rfl, hbusy⟩ | ⟨rfl, hbusy⟩
    · rfl
    · rfl
    · exact Ctl.ifFrozen_ok (.inr hbusy)
    · exact Ctl.ifFrozen_ok (.inr hbusy)

/-- Settles O28: the register at the address ignores the store, so the instruction only retires. -/
theorem readOnlyRegistersIgnoreStores : Obligations.ReadOnlyRegistersIgnoreStores := by
  intro s rt base off ea hv hk hoff hea ha hwhere
  suffices hignored : ∃ r, RegisterIs s.cfg ea r ∧ s.retire.writeRegister (s.cpu.src rt) r = .ok s.retire by
    obtain ⟨r, hr, hwrite⟩ := hignored
    exact ⟨s.retire, exec_sw_register hv hk hoff r hr hea.symm hwrite, s.retire_with_mem_result s.mem fun _ _ => rfl⟩
  rcases hwhere with ⟨hlow, hhigh, htimer⟩ | hncpus | ⟨n, k, hn, hk4, hdevice, hreadOnly⟩
  · obtain ⟨r, hr, hignores⟩ := registerIs_ignoresStores ha hlow hhigh htimer
    exact ⟨r, hr, hignores _ _⟩
  · refine ⟨.ncpus, registerIs_control hv ?_, rfl⟩
    rw [hncpus]
    decide
  · exact ⟨.device n k, ⟨ha, hdevice ▸ registerAt_device hn hk4⟩,
      State.writeDevice_readOnly (s := s.retire) hreadOnly _⟩

/-! ## Stores with an effect -/

/-- Settles O29: the register's own effect comes after the retirement, and it is all that changes beside it. -/
theorem busRegistersWrite : Obligations.BusRegistersWrite := by
  rintro s rt base off ea v hv hk hoff hea rfl hmem
  have sw : ∀ {t : State} (r : MmReg), RegisterIs s.cfg ea r → s.retire.writeRegister (s.cpu.src rt) r = .ok t →
      exec (.sw rt base off) s = .next t := fun r hr => exec_sw_register hv hk hoff r hr hea.symm
  have hcontrol : s.cpu.SameControl s.cpu.advance := Cpu.SameControl.refl s.cpu
  have hmachine : s.SameMachine s.retire := State.SameMachine.refl s
  simp only [List.mem_cons, List.not_mem_nil, or_false] at hmem
  rcases hmem with rfl | rfl | rfl | rfl | rfl | rfl | rfl
  case' inl => refine ⟨_, sw .intervalTimer (registerIs_bus (by decide)) rfl, ?_⟩
  case' inr.inl => refine ⟨_, sw .bootPc (registerIs_control hv (by decide)) rfl, ?_⟩
  case' inr.inr.inl => refine ⟨_, sw .bootSp (registerIs_control hv (by decide)) rfl, ?_⟩
  case' inr.inr.inr.inl => refine ⟨_, sw .tpr (registerIs_interface hv (by decide)) rfl, ?_⟩
  case' inr.inr.inr.inr.inl => refine ⟨_, sw .inbox (registerIs_interface hv (by decide)) rfl, ?_⟩
  case' inr.inr.inr.inr.inr.inl => refine ⟨_, sw .biosReserved1 (registerIs_interface hv (by decide)) rfl, ?_⟩
  case' inr.inr.inr.inr.inr.inr => refine ⟨_, sw .biosReserved2 (registerIs_interface hv (by decide)) rfl, ?_⟩
  all_goals
    refine ⟨fun _ => rfl, ⟨rfl, rfl⟩, ⟨⟨rfl, rfl, rfl⟩, rfl⟩, fun _ => rfl, ?_⟩
    -- The clauses of the other six addresses are void.
    simp only [BitVec.reduceEq, forall_const, IsEmpty.forall_iff, and_true, true_and]
  case inl => exact ⟨rfl, rfl, hcontrol, hmachine⟩
  case inr.inr.inr.inr.inl => exact ⟨List.drop_one.symm, hcontrol, hmachine⟩
  all_goals exact ⟨hcontrol, hmachine⟩

end Sys2Proof.Machine
end

section
/-! PROOFS. The byte order (20_memory.md R100, R101; O17), the accesses to a register area that are refused (R95, R96;
O26) and the fetches that do not reach memory (R92, R103; O49). A word just written is read lane by lane. An access
answers the refusal of the region that it reaches, and the instruction or the step answers it too. -/

namespace Sys2Proof.Machine

/-! ## Byte order -/

/-- Each lane of a word just written lies at the lane's offset (R100). -/
theorem Memory.read_writeWord (big : Bool) (m : Memory) (a : Nat) (v : Word) {j : Nat} (hj : j < 4) :
    (m.writeWord big a v).read (a + laneOffset big j) = laneOf v j := by
  rw [Memory.writeWord, Memory.read_writeLanes _ _ _ _ _ _ hj, if_pos rfl]

/-- Two adjacent lanes are a halfword of the word. -/
theorem laneOf_succ_append (v : Word) (j : Nat) : laneOf v (j + 1) ++ laneOf v j = v.extractLsb' (8 * j) 16 :=
  BitVec.extractLsb'_append_extractLsb'_eq_extractLsb' (Nat.mul_succ 8 j)

/-- The halfword in the lanes `j` and `j + 1` of a word just written lies at the lower of the two lanes' offsets
(R100). -/
theorem Memory.readHalf_writeWord (big : Bool) (m : Memory) (a : Nat) (v : Word) {j : Nat} (hj : j + 1 < 4) :
    (m.writeWord big a v).readHalf big (a + min (laneOffset big j) (laneOffset big (j + 1))) =
      v.extractLsb' (8 * j) 16 := by
  rw [← laneOf_succ_append, ← Memory.read_writeWord big m a v hj,
    ← Memory.read_writeWord big m a v (j := j) (by omega), Memory.readHalf]
  cases big with
  | false => simp [laneOffset, Nat.add_assoc]
  | true =>
    have hoffset : 3 - j = 3 - (j + 1) + 1 := by omega
    simp [laneOffset, hoffset, Nat.add_assoc]

/-- Settles O17: the lanes and the halfwords of the word just written, at their offsets in either byte order. -/
theorem byteOrder : Obligations.ByteOrder := by
  refine fun m a v => ⟨fun k hk => m.read_writeWord false a v hk, fun k hk => ?big,
    fun big => m.readWord_writeWord big a v, m.readHalf_writeWord false a v (j := 0) (by decide),
    m.readHalf_writeWord false a v (j := 2) (by decide), m.readHalf_writeWord true a v (j := 2) (by decide),
    m.readHalf_writeWord true a v (j := 0) (by decide)⟩
  case big =>
    have hoffset : laneOffset true (3 - k) = k := Nat.sub_sub_self (Nat.le_of_lt_succ hk)
    have hread := m.read_writeWord true a v (j := 3 - k) (by omega)
    rwa [hoffset] at hread

/-! ## Accesses to a register area that are refused -/

section
variable {s : State} {w : Width} {ea : Word} {pa : Nat} {r : MmReg}

/-- A load of less than a word from a register (R95, D24). -/
theorem State.memLoad_narrowRegister (hw : w ≠ .word) (hr : regionOf s.cfg pa = .register r)
    (ht : s.Reaches .load w ea pa) : s.memLoad w ea = .refuse .narrowRegisterAccess := by
  obtain ⟨p, hp, rfl⟩ := ht
  simp only [State.memLoad, hp, State.physLoad, hr, if_neg hw]

theorem State.memLoadAround_register (hr : regionOf s.cfg (alignedAddr pa) = .register r)
    (ht : s.Reaches .load .byte ea pa) : s.memLoadAround ea = .refuse .narrowRegisterAccess := by
  obtain ⟨p, hp, rfl⟩ := ht
  simp only [State.memLoadAround, hp, State.physLoadAround, hr]

/-- A store of less than a word to a register (R95, D24). -/
theorem State.memStore_narrowRegister (v : Word) (hw : w ≠ .word) (hr : regionOf s.cfg pa = .register r)
    (ht : s.Reaches .store w ea pa) : s.memStore w ea v = .refuse .narrowRegisterAccess := by
  obtain ⟨p, hp, rfl⟩ := ht
  simp only [State.memStore, hp, State.physStore, hr, if_neg hw]

theorem State.memStoreAround_register (v : Word) (lanes : Nat → Bool)
    (hr : regionOf s.cfg (alignedAddr pa) = .register r) (ht : s.Reaches .store .byte ea pa) :
    s.memStoreAround ea v lanes = .refuse .narrowRegisterAccess := by
  obtain ⟨p, hp, rfl⟩ := ht
  simp only [State.memStoreAround, hp, State.physStoreAround, hr]

/-! ## Instructions that answer a refusal -/

variable {q : Refusal}

theorem State.finish_refused {a : Res State} (h : a = .refuse q) : s.finish a = .refused q := by
  rw [h, State.finish_refuse]

/-- A load whose access is refused. -/
theorem State.finish_map_refused {α : Type} {a : Res α} {f : α → State} (h : a = .refuse q) :
    s.finish (a.map f) = .refused q :=
  State.finish_refused (by rw [h, Res.map_refuse])

end

/-- Settles O26: the access of each instruction is one that a register refuses. -/
theorem narrowRegisterAccessStops : Obligations.NarrowRegisterAccessStops := by
  rintro s rt base off pa r ea rfl
  simp only [List.forall_mem_cons]
  refine ⟨fun hr => ⟨fun ht => ?byteLoads, fun ht => ?halfLoads, fun ht => ?sb, fun ht => ?sh⟩,
    fun hr => ⟨fun ht => ?unalignedLoads, fun ht => ?unalignedStores⟩⟩
  case byteLoads | halfLoads =>
    have hload := State.memLoad_narrowRegister (by decide) hr ht
    exact ⟨State.finish_map_refused hload, State.finish_map_refused hload, nofun⟩
  case sb | sh => exact State.finish_refused (State.memStore_narrowRegister _ (by decide) hr ht)
  case unalignedLoads =>
    have hload := State.memLoadAround_register hr ht
    exact ⟨State.finish_map_refused hload, State.finish_map_refused hload, nofun⟩
  case unalignedStores =>
    exact ⟨State.finish_refused (State.memStoreAround_register _ _ hr ht),
      State.finish_refused (State.memStoreAround_register _ _ hr ht), nofun⟩

/-! ## Fetches that do not reach memory -/

section
variable {s : State} {pa : Nat} (ht : s.Reaches .fetch .word s.cpu.pc pa)
include ht

/-- A fetch where nothing is (R92). -/
theorem State.fetch_undefined (hr : regionOf s.cfg pa = .undefined) :
    s.fetch = .exc (.busError .fetch s.cpu.pc) := by
  obtain ⟨p, hp, rfl⟩ := ht
  simp only [State.fetch, hp, hr]

/-- A fetch from a register (R96, D23). -/
theorem State.fetch_register {r : MmReg} (hr : regionOf s.cfg pa = .register r) :
    s.fetch = .refuse .fetchFromRegister := by
  obtain ⟨p, hp, rfl⟩ := ht
  simp only [State.fetch, hp, hr]

end

/-- The step of a Running processor without an interrupt whose fetch is refused (R480). -/
theorem step_fetch_refuse {s : State} {q : Refusal} (hs : s.stopped = false) (hp : s.cpu.power = .running)
    (hi : s.intAccepted = false) (hf : s.fetch = .refuse q) : step s = .refused q := by
  simp [step, State.turn, State.runTurn, turnOver, hs, hp, hi, hf]

/-- Settles O49: the step takes the exception of the fetch or answers its refusal; alignment is the first test of the
translation, and the address of its error is the program counter, as is EPC outside a delay slot. -/
theorem fetchTraps : Obligations.FetchTraps := by
  intro s hs hp hi
  have htrap {e : Exc} (hf : s.fetch = .exc e) : step s = .next (s.enter e).endTurn := step_fetch_exc hs hp hi hf
  refine ⟨fun e he => htrap (State.fetch_refused he), fun pa ht hr => htrap (State.fetch_undefined ht hr),
    fun pa r ht hr => step_fetch_refuse hs hp hi (State.fetch_register ht hr), fun hmisaligned => ?misaligned⟩
  case misaligned =>
    have herror := translateAddr_misaligned (cfg := s.cfg) (c := s.cpu) (k := .fetch) (w := .word) hmisaligned
    have hepc (hd : s.cpu.inDelay = false) : (s.cpu.enter (.addressError .fetch s.cpu.pc)).epc = s.cpu.pc := by
      simp [hd]
    exact ⟨_, htrap (State.fetch_refused herror), s.enter_entered _, rfl, hepc⟩

end Sys2Proof.Machine
end

section
/-! PROOFS. What the instructions refuse (43_branch_jump.md R245, R252-R254; 44_system_cp0.md R266; 30_encoding.md R151;
O36), the COP0 instructions without privilege (44_system_cp0.md R260; O38) and MTC0 (R264; O40). Each guard answers its
refusal or its exception whatever the instruction's effect is; MTC0 past its guard retires with `Cpu.cp0Write`. -/

namespace Sys2Proof

/-! ## Words with a non-zero must-be-zero field -/

theorem Decoded.ifZero_eq_mustBeZero_iff {zero : Bool} {i : Instr} :
    Decoded.ifZero zero i = .mustBeZero ↔ zero = false := by
  cases zero <;> simp [Decoded.ifZero]

/-- The rows of SPECIAL by their must-be-zero fields (R145, R151). -/
theorem decodeSpecial_mustBeZero {w : Word}
    (h : (fFunct w ∈ [0x04#6, 0x06, 0x07, 0x0B, 0x20, 0x21, 0x22, 0x23, 0x24, 0x25, 0x26, 0x27, 0x2A, 0x2B] ∧
        fSa w ≠ 0) ∨
      (fFunct w ∈ [0x00#6, 0x02, 0x03] ∧ fRs w ≠ 0) ∨
      (fFunct w ∈ [0x08#6, 0x11, 0x13] ∧ (fRt w ≠ 0 ∨ fRd w ≠ 0 ∨ fSa w ≠ 0)) ∨
      (fFunct w = 0x09#6 ∧ (fRt w ≠ 0 ∨ fSa w ≠ 0)) ∨
      (fFunct w ∈ [0x10#6, 0x12] ∧ (fRs w ≠ 0 ∨ fRt w ≠ 0 ∨ fSa w ≠ 0)) ∨
      (fFunct w ∈ [0x18#6, 0x19, 0x1A, 0x1B] ∧ (fRd w ≠ 0 ∨ fSa w ≠ 0))) :
    decodeSpecial w = .mustBeZero := by
  simp only [List.mem_cons, List.not_mem_nil, or_false, ne_eq, ← BitVec.toNat_inj, BitVec.ofNat_eq_ofNat,
    BitVec.reduceToNat] at h
  unfold decodeSpecial
  dsimp only
  split
  case h_30 => grind
  case h_10 | h_11 => omega
  all_goals
    simp only [Decoded.ifZero_eq_mustBeZero_iff, Bool.and_eq_false_iff, beq_eq_false_iff_ne, ne_eq, ← BitVec.toNat_inj,
      BitVec.ofNat_eq_ofNat, BitVec.reduceToNat]
    omega

/-- BLEZ and BGTZ (R144, R151). -/
theorem decode_mustBeZero_of_rt {w : Word} (hop : fOp w ∈ [0x06#6, 0x07]) (hrt : fRt w ≠ 0) :
    decode w = .mustBeZero := by
  simp only [List.mem_cons, List.not_mem_nil, or_false] at hop
  rcases hop with hop | hop <;> simpa [decode, hop, Decoded.ifZero_eq_mustBeZero_iff] using hrt

/-- LUI (R144, R151). -/
theorem decode_mustBeZero_of_rs {w : Word} (hop : fOp w = 0x0F#6) (hrs : fRs w ≠ 0) : decode w = .mustBeZero := by
  simpa [decode, hop, Decoded.ifZero_eq_mustBeZero_iff] using hrs

end Sys2Proof

namespace Sys2Proof.Machine

/-! ## Refusals -/

/-- Every jump and branch in a delay slot, whatever its effect (R254, D16). -/
theorem State.notInDelay_inside {s : State} (hd : s.cpu.inDelay = true) (effect : Out) :
    s.notInDelay effect = .refused .branchInDelaySlot :=
  if_pos hd

theorem exec_jalr_notRestartable {s : State} (hd : s.cpu.inDelay = false) (rs : Reg) :
    exec (.jalr rs rs) s = .refused .notRestartable :=
  (State.notInDelay_outside hd _).trans (if_pos rfl)

/-- A branch that links over its own source register (R252, R253, D28). -/
theorem State.branchLinkIf_notRestartable {s : State} (hd : s.cpu.inDelay = false) (taken : Bool) (off : Half) :
    s.branchLinkIf 31 taken off = .refused .notRestartable :=
  (State.notInDelay_outside hd _).trans (if_pos rfl)

/-- With an Index at or beyond TLBSIZE the TLB instructions that use it are refused (R266, D11). -/
theorem State.withTlbIndex_of_le {s : State} (h : s.cfg.tlbSize ≤ (tlbIndexOf s.cpu.index).toNat)
    (effect : TlbIx → Out) : s.withTlbIndex effect = .refused .tlbIndexBeyondSize :=
  if_neg (Nat.not_lt.2 h)

theorem State.execute_mustBeZero (s : State) {w : Word} (h : decode w = .mustBeZero) :
    s.execute w = .refused .mustBeZero := by
  rw [State.execute, h]

/-- Settles O36: the guard of each form refuses it; a word with a non-zero must-be-zero field is one of SPECIAL, BLEZ,
BGTZ or LUI. -/
theorem forbiddenFormsStop : Obligations.ForbiddenFormsStop := by
  refine fun s target rd rs rt off => ⟨fun hd => ?delaySlot, fun hd => ?notRestartable, fun hu hi => ?tlbIndex,
    fun w h => s.execute_mustBeZero ?mustBeZero⟩
  case delaySlot =>
    have hslot := State.notInDelay_inside hd
    simp only [List.forall_mem_cons]
    exact ⟨hslot _, hslot _, hslot _, hslot _, hslot _, hslot _, hslot _, hslot _, hslot _, hslot _, hslot _, hslot _,
      nofun⟩
  case notRestartable =>
    simp only [List.forall_mem_cons]
    exact ⟨exec_jalr_notRestartable hd rs, State.branchLinkIf_notRestartable hd _ off,
      State.branchLinkIf_notRestartable hd _ off, nofun⟩
  case tlbIndex =>
    have hcp0 := s.withCp0_of_privileged hu
    have hindex := State.withTlbIndex_of_le hi
    simp only [List.forall_mem_cons]
    exact ⟨(hcp0 _).trans (hindex _), (hcp0 _).trans (hindex _), nofun⟩
  case mustBeZero =>
    by_cases hop : fOp w = 0
    · rw [decode_special hop]
      exact decodeSpecial_mustBeZero (by simpa [hop] using h)
    · simp only [hop, false_and, false_or] at h
      rcases h with ⟨hop, hrt⟩ | ⟨hop, hrs⟩
      · exact decode_mustBeZero_of_rt hop hrt
      · exact decode_mustBeZero_of_rs hop hrs

/-! ## COP0 instructions without privilege -/

/-- Where CP0 is not usable a CP0 instruction enters its exception instead of its effect (R260). -/
theorem State.withCp0_of_unprivileged {s : State} (h : s.cpu.unprivileged = true) (effect : Out) :
    s.withCp0 effect = .next (s.enter (.copUnusable 0)) := by
  rw [State.withCp0, Cpu.cp0Usable_eq, h]
  rfl

/-- Settles O38: all eight instructions have the guard. -/
theorem cp0NeedsPrivilege : Obligations.Cp0NeedsPrivilege := by
  intro s rt rd hku hcu
  have hu : s.cpu.unprivileged = true := by rw [Cpu.unprivileged, statusKUc, statusCU0, hku, hcu]; rfl
  have htrap := State.withCp0_of_unprivileged hu
  simp only [List.forall_mem_cons]
  exact ⟨exec_takes (htrap _), exec_takes (htrap _), exec_takes (htrap _), exec_takes (htrap _), exec_takes (htrap _),
    exec_takes (htrap _), exec_takes (htrap _), exec_takes (htrap _), nofun⟩

/-! ## MTC0 -/

/-- A write of a CP0 register leaves the general registers, HI, LO and the program counter alone (R264). -/
theorem Cpu.cp0Write_frame (cfg : Config) (c : Cpu) (v : Word) (r : Option Cp0Reg) :
    (c.cp0Write cfg v r).gpr = c.gpr ∧ (c.cp0Write cfg v r).hi = c.hi ∧ (c.cp0Write cfg v r).lo = c.lo ∧
      (c.cp0Write cfg v r).npc = c.npc := by
  unfold Cpu.cp0Write
  split <;> exact ⟨rfl, rfl, rfl, rfl⟩

/-- The named bits of Status are written as given (R264). -/
theorem status_written_named (v : Word) : v &&& 0x1FFFFFFF#32 &&& 0x1840FF3F#32 = v &&& 0x1840FF3F#32 :=
  BitVec.and_assoc v _ _

/-- CU[3:1] are not written (R36). -/
theorem status_written_cu (v : Word) : v &&& 0x1FFFFFFF#32 &&& 0xE0000000#32 = 0 :=
  (BitVec.and_assoc v _ _).trans BitVec.and_zero

/-- Settles O40: MTC0 retires with the write of its register, whose bits are those of the register's write mask. -/
theorem mtc0Completes : Obligations.Mtc0Completes := by
  rintro s rt rd v hu rfl
  obtain ⟨hgpr, hhi, hlo, hnpc⟩ := s.cpu.cp0Write_frame s.cfg (s.cpu.src rt) (s.cp0Of rd)
  obtain ⟨hregs, hhilo, hretired, hmem, hmachine⟩ := s.retire_with_cpu _ hgpr hhi hlo hnpc
  refine ⟨_, s.withCp0_of_privileged hu _, hregs, hhilo, hretired, hmem, hmachine, ?register⟩
  case register =>
    have hcontrol : s.cpu.SameControl s.cpu.advance := Cpu.SameControl.refl s.cpu
    generalize s.cp0Of rd = r
    match r with
    | some .index | some .entryLo | some .entryHi => exact ⟨rfl, hcontrol⟩
    | some .timer => exact ⟨rfl, rfl, hcontrol⟩
    | some .status => exact ⟨status_written_named _, status_written_cu _, hcontrol⟩
    | some .cause =>
      refine ⟨fun i _ => ?_, hcontrol⟩
      rw [← BitVec.getLsbD_and]
      exact mergeBits_getLsbD _ _ _ i
    | some .random | some .badVAddr | some .epc | some .prid | none => exact hcontrol

end Sys2Proof.Machine
end

section
/-! PROOFS. The stores to the Outbox (60_exceptions.md R393; O30) and to a printer (61_devices.md R407-R410, R446; O31)
in kernel mode with the TLB off. SW answers what `State.writeRegister` of the register answers after the retirement: for
the Outbox a message in some queues, for a printer's COMMAND the start of an operation or a refusal. -/

namespace Sys2Proof.Machine

/-! ## The Outbox -/

/-- The queue of processor `c` after a store of `v` to the Outbox by processor `origin` (R393). -/
def Cpu.queueAfterOutbox (cfg : Config) (origin : CpuId) (v : Word) (c : Cpu) : List Ipi :=
  if v.getLsbD (8 + c.prid.toNat) = true ∧ c.prid.toNat < cfg.ncpu ∧ origin ∉ c.ipiQueue.map Ipi.origin then
    c.ipiQueue ++ [{ origin := origin, message := v.extractLsb' 0 8 }]
  else c.ipiQueue

/-- An IPI joins the queue unless one from its origin is there (R393). -/
theorem Cpu.receiveIpi_eq (c : Cpu) (origin : CpuId) (message : Byte) :
    c.receiveIpi origin message =
      if origin ∉ c.ipiQueue.map Ipi.origin then
        { c with ipiQueue := c.ipiQueue ++ [{ origin := origin, message := message }], signalled := true }
      else c := by
  have hany : (c.ipiQueue.any fun i => i.origin == origin) = true ↔ origin ∈ c.ipiQueue.map Ipi.origin := by
    simp
  rw [Cpu.receiveIpi, ite_not]
  exact if_congr hany rfl rfl

/-- A store to the Outbox changes the queues and the notes of a signal only (R393). -/
theorem State.writeOutbox_eq (s : State) (v : Word) :
    ∃ signal : Cpu → Bool, s.writeOutbox v = s.mapCpus fun c =>
      { c with ipiQueue := c.queueAfterOutbox s.cfg s.cpu.prid v, signalled := signal c } := by
  have hcpu (c : Cpu) : ∃ b,
      (if v.getLsbD (8 + c.prid.toNat) && decide (c.prid.toNat < s.cfg.ncpu) then
        c.receiveIpi s.cpu.prid (laneOf v 0) else c) =
      { c with ipiQueue := c.queueAfterOutbox s.cfg s.cpu.prid v, signalled := b } := by
    simp only [Cpu.receiveIpi_eq, Cpu.queueAfterOutbox, Bool.and_eq_true, decide_eq_true_eq, ← ite_and, and_assoc]
    split
    · exact ⟨true, rfl⟩
    · exact ⟨c.signalled, rfl⟩
  choose signal hsignal using hcpu
  exact ⟨signal, congrArg s.mapCpus (funext hsignal)⟩

/-- Settles O30: the effect of the Outbox after the retirement, queue by queue. -/
theorem outboxDelivers : Obligations.OutboxDelivers := by
  intro s rt base off hv hk hoff hea
  obtain ⟨signal, hstore⟩ := s.retire.writeOutbox_eq (s.cpu.src rt)
  refine ⟨_, exec_sw_register hv hk hoff .outbox (registerIs_interface hv (by decide)) hea (congrArg Res.ok hstore),
    fun _ => rfl, ⟨rfl, rfl⟩, ⟨⟨rfl, rfl, rfl⟩, rfl⟩, fun _ => rfl, ?queues, ?others, Cpu.SameControl.refl s.cpu,
    State.SameMachine.refl s⟩
  case queues =>
    simp only [State.allCpus, State.mapCpus_cpu, State.mapCpus_todo, State.mapCpus_done, ← List.map_append,
      List.map_cons, List.map_map]
    rfl
  case others =>
    rw [State.mapCpus_todo, State.mapCpus_done, ← List.map_append, List.map_map]
    rfl

/-! ## A device replaced -/

theorem lookup_cons_eq_ite {α : Type} (l : List (Nat × α)) (k m : Nat) (d : α) :
    ((k, d) :: l).lookup m = if m = k then some d else l.lookup m := by
  rw [List.lookup_cons]
  split <;> simp_all

/-- Looking up a number after the entries of one number are replaced. -/
theorem lookup_map_replace {α : Type} (l : List (Nat × α)) (n : Nat) (d : α) (m : Nat) :
    (l.map fun p => if p.1 = n then (p.1, d) else p).lookup m =
      if m = n then (l.lookup n).map fun _ => d else l.lookup m := by
  induction l with
  | nil => simp
  | cons p l ih =>
    obtain ⟨k, e⟩ := p
    by_cases hkn : k = n
    · subst hkn
      simp only [List.map_cons, if_true, lookup_cons_eq_ite, ih]
      split <;> simp
    · simp only [List.map_cons, if_neg hkn, lookup_cons_eq_ite, ih, if_neg (Ne.symm hkn)]
      by_cases hmk : m = k
      · rw [if_pos hmk, if_pos hmk, if_neg (hmk ▸ hkn)]
      · rw [if_neg hmk, if_neg hmk]

theorem State.device_setDevice_self {s : State} {n : Nat} {d : Device} (h : s.device n = some d) (e : Device) :
    (s.setDevice n e).device n = some e := by
  have hlookup : s.devices.lookup n = some d := h
  rw [State.device, State.setDevice, lookup_map_replace, if_pos rfl, hlookup, Option.map_some]

theorem State.device_setDevice_ne (s : State) {n m : Nat} (h : m ≠ n) (e : Device) :
    (s.setDevice n e).device m = s.device m := by
  rw [State.device, State.setDevice, lookup_map_replace, if_neg h, State.device]

/-! ## Commands -/

/-- A word has no set bit above its command code exactly when it is below 256 (R408). -/
theorem and_upperBits_eq_zero_iff (v : Word) : v &&& 0xFFFFFF00#32 = 0 ↔ v.toNat < 256 := by
  have hlow : (v &&& 0xFF#32).toNat = v.toNat % 256 := Nat.and_two_pow_sub_one_eq_mod v.toNat 8
  have hsplit : (v &&& 0xFFFFFF00#32) ||| (v &&& 0xFF#32) = v := by
    rw [← BitVec.and_or_distrib_left]
    exact BitVec.and_allOnes
  constructor
  · intro h
    have hv : v &&& 0xFF#32 = v := by rwa [h, BitVec.ofNat_eq_ofNat, BitVec.zero_or] at hsplit
    rw [hv] at hlow
    omega
  · intro h
    have hv : v &&& 0xFF#32 = v := BitVec.eq_of_toNat_eq (hlow.trans (Nat.mod_eq_of_lt h))
    rw [← hv, BitVec.and_assoc]
    exact BitVec.and_zero

theorem cmdCode_eq (v : Word) : cmdCode v = v.toNat % 256 := by
  rw [cmdCode, BitVec.extractLsb'_toNat, Nat.shiftRight_zero]

/-- Every code but those of RESET and ACK starts an operation (R408, R409). -/
theorem State.command_operation (s : State) (c : Ctl) {v : Word} (ready : Word) (h : 2 ≤ cmdCode v) :
    s.command c v ready = s.startOp c v := by
  unfold State.command
  split
  · omega
  · omega
  · rfl

/-! ## Printers -/

section
variable {s : State} {n : Nat} {d : Printer} {v : Word}

/-- A store to the COMMAND of a printer that is not busy (R408, D50). -/
theorem State.writePrinter_command (h : d.ctl.act = .ready) :
    s.writePrinter n d 1 v = if v.toNat < 256 then .ok (s.commandPrinter n d v) else .refuse .commandUpperBits := by
  have hready : ¬ d.ctl.frozen = true := fun hfrozen => (d.ctl.frozen_iff.1 hfrozen) h
  rw [State.writePrinter, if_neg hready]
  exact if_congr (and_upperBits_eq_zero_iff v) rfl rfl

/-- The printer and its controller after the start of an operation (R408, R410). -/
theorem State.commandPrinter_operation (h : 2 ≤ cmdCode v) :
    s.commandPrinter n d v = (s.drawn 1).setDevice n (.printer { d with ctl := (s.startOp d.ctl v).1 }) := by
  rw [State.commandPrinter, State.command_operation _ _ _ h]
  rfl

theorem State.writeDevice_printer (h : s.device n = some (.printer d)) (k : Nat) :
    s.writeDevice n k v = s.writePrinter n d k v := by
  rw [State.writeDevice, h]

end

/-- The four words of each device register (R401). -/
theorem deviceAddress_toNat {n k : Nat} (hn : n < 40) (hk : k < 4) :
    (BitVec.ofNat 32 (0x10000054 + 16 * n + 4 * k)).toNat = 0x10000054 + 16 * n + 4 * k :=
  Nat.mod_eq_of_lt (by omega)

theorem registerIs_device {cfg : Config} {n k : Nat} (hn : n < 40) (hk : k < 4) :
    RegisterIs cfg (BitVec.ofNat 32 (0x10000054 + 16 * n + 4 * k)) (.device n k) := by
  rw [RegisterIs, deviceAddress_toNat hn hk]
  exact ⟨by omega, registerAt_device hn hk⟩

/-- SW of a register answers what the register answers once the instruction has retired (R96). -/
theorem exec_sw_register_finish {s : State} (hv : s.cfg.valid = true) (hk : s.cpu.status.getLsbD 1 = false)
    (hoff : s.cfg.tlbFloor = .vmOff) {rt base : Reg} {off : Half} {a : Word} {r : MmReg} (hr : RegisterIs s.cfg a r)
    (hea : s.cpu.src base + off.signExtend 32 = a) :
    exec (.sw rt base off) s = s.finish (s.retire.writeRegister (s.cpu.src rt) r) := by
  obtain ⟨ha, hr⟩ := hr
  change s.finish (s.memStore .word (s.cpu.src base + off.signExtend 32) (s.cpu.src rt)) = _
  simp only [hea, State.memStore, translateAddr_kernel_vmOff hk hoff ha, State.physStore, regionOf_register hv hr,
    if_true]

/-- Settles O31: a busy printer's words are read-only; the COMMAND of one that is not busy is refused for its upper bits
or starts the operation, and no other device is replaced. -/
theorem printerCommands : Obligations.PrinterCommands := by
  intro s rt base off n k d hv hk hoff hlow hhigh hk4 hea hd
  have hn : n < 40 := Nat.lt_trans hhigh (by decide)
  refine ⟨fun hbusy => ?busy, fun hready hk1 hupper => ?refused, fun hready hk1 hcode hlower => ?started⟩
  case busy =>
    have hreadOnly : ∀ e, s.device n = some e → e.ReadOnlyWord k := by
      intro e he
      obtain rfl := Option.some.inj (hd.symm.trans he)
      exact .inr hbusy
    exact readOnlyRegistersIgnoreStores s rt base off _ hv hk hoff hea.symm (registerIs_device (cfg := s.cfg) hn hk4).1
      (.inr (.inr ⟨n, k, hn, hk4, deviceAddress_toNat hn hk4, hreadOnly⟩))
  all_goals
    subst hk1
    have hsw : exec (.sw rt base off) s = s.finish (s.retire.writePrinter n d 1 (s.cpu.src rt)) :=
      (exec_sw_register_finish hv hk hoff (registerIs_device hn hk4) hea).trans
        (congrArg s.finish (State.writeDevice_printer (s := s.retire) hd 1))
    rw [State.writePrinter_command hready] at hsw
  case refused => rw [hsw, if_neg (Nat.not_lt.2 hupper), State.finish_refuse]
  case started =>
    have hoperation : 2 ≤ cmdCode (s.cpu.src rt) := by
      rw [cmdCode_eq]
      omega
    rw [if_pos hlower, State.commandPrinter_operation hoperation, State.finish_ok] at hsw
    exact ⟨_, _, _, hsw, State.device_setDevice_self (s := s.retire.drawn 1) hd _, rfl, rfl, rfl, rfl,
      Nat.lt_add_right _ (Nat.lt_succ_self s.now), rfl, rfl, fun m hm => (s.retire.drawn 1).device_setDevice_ne hm _,
      fun _ => rfl, ⟨rfl, rfl⟩, ⟨⟨rfl, rfl, rfl⟩, rfl⟩, Cpu.SameControl.refl s.cpu, fun _ => rfl,
      State.SameMachine.refl s⟩

end Sys2Proof.Machine
end

section
/-! PROOFS. The words of the spec's examples (95_test_vectors.md; O3) and the machine right after reset (10_state.md
R65; O58). -/

namespace Sys2Proof.Machine

/-- Settles O3: each word is that of its instruction. -/
theorem decodeWords : Obligations.DecodeWords :=
  ⟨decodeOfEncode (.add 3 1 2), decodeOfEncode (.addi 2 1 0xFFFF#16), decodeOfEncode (.div 1 2),
    decodeOfEncode (.lw 2 1 4), decodeOfEncode (.bgezal 1 3), decodeOfEncode (.mtc0 2 12),
    decodeOfEncode (.cas 2 4 5)⟩

/-- Settles O58: a valid configuration, an empty memory, one processor as `Cpu.atReset` leaves it and no device. -/
theorem resetIsWellFormed : Obligations.ResetIsWellFormed := by
  have hv : State.reset.cfg.valid = true := by decide
  refine ⟨hv, reset_mem_wf, ?processors, ⟨.nil, nofun⟩, .refl _⟩
  case processors =>
    intro c hc
    obtain rfl : c = Cpu.atReset {} 0 .running := List.mem_singleton.1 hc
    exact Cpu.wf_atReset hv 0 .running

end Sys2Proof.Machine
end
